-- ==== Sys2Proof/Word.lean ====
section
/-! DEFINITION. The word types of the TM2W engine (00_scope.md R10, R11) and the two containers that hold one
value per line and one value per display position. Every quantity is an unsigned byte or narrower (R19). -/

namespace Sys2Proof

/-- R11: `Bit` = 0 or 1, on a line 0 is the low level and 1 the high level (`true` is 1, high). -/
abbrev Bit := Bool

/-- R11: an unsigned 8-bit value; bit 0 is the least significant (R10). -/
abbrev Byte := BitVec 8

/-- R90: the host's 24-bit command word, `op` in bits 23..16, `a` in 15..8, `b` in 7..0. -/
abbrev CmdWord := BitVec 24

/-- R11: a display position, 0..3. -/
abbrev Pos := BitVec 2

/-- One value for each of the two lines, clock and data. -/
structure PerLine (α : Type) where
  clk : α
  dio : α
  deriving DecidableEq, Repr, Inhabited

/-- R31: four bytes, one for each display position 0..3. -/
structure Cells where
  p0 : Byte
  p1 : Byte
  p2 : Byte
  p3 : Byte
  deriving DecidableEq, Repr, Inhabited

end Sys2Proof
end

