-- ==== Sys2Proof/Config.lean ====
section
/-! DEFINITION. The parameters of 00_scope.md R6, and the free values. A parameter with a value in R6 is a plain
constant here; a parameter marked OPEN there is a field of `Config`. A state carries its `Config` (log 2), so a
statement about every state is a statement about every value of every open parameter. -/

namespace Sys2Proof

/-- R6 `START_RAISE_ORDER`, R142: which line START raises first; `both` admits both orders. -/
inductive RaiseOrder where
  | dioFirst
  | clkFirst
  | both
  deriving DecidableEq, Repr, Inhabited

/-- R202 `DIGIT_LUT`: the nine entries the source does not give. Entry 5 is fixed to 0x6D, so it is no field; bit 7
of every entry is 0, so an entry is its low 7 bits. -/
structure DigitLut where
  d0 : BitVec 7
  d1 : BitVec 7
  d2 : BitVec 7
  d3 : BitVec 7
  d4 : BitVec 7
  d6 : BitVec 7
  d7 : BitVec 7
  d8 : BitVec 7
  d9 : BitVec 7
  deriving DecidableEq, Repr, Inhabited

/-- The OPEN parameters of R6. `charMap` (R205) lists a code with the low 7 bits of its pattern (bit 7 of every value
is 0); the first row of a code counts. `tSettle` and `tScroll` are durations no step depends on (R9). -/
structure Config where
  raiseOrder : RaiseOrder
  clkPin     : Byte
  dioPin     : Byte
  digitLut   : DigitLut
  charMap    : List (Byte × BitVec 7)
  bufReset   : Cells
  lvlReset   : PerLine Bit
  tSettle    : Nat
  tScroll    : Nat
  deriving DecidableEq, Repr, Inhabited

/-- R6 `DEFAULT_BRIGHTNESS`. -/
def Config.defaultBrightness : BitVec 3 := 7#3

/-- R6 `DEFAULT_ENABLED`. -/
def Config.defaultEnabled : Bool := true

/-- The parameters of the engine at hand: nothing is known of them (R6 OPEN, U6, U7, U13, U14, U19). No body. -/
opaque Config.chosen : Config

/-- The level the oracle answers to the read with this number, where no oracle is named (R125, U5). No body. -/
opaque Config.freeLevel : Nat → Bit

/-- Under `START_RAISE_ORDER = both`: whether the START with this number shows its raise of the data line first
(R142, U6). No body. -/
opaque Config.freeDioFirst : Nat → Bool

/-- R202, the usual 7-segment table, general knowledge of the spec (G1): only the vectors use it. -/
def Config.usualLut : DigitLut where
  d0 := 0x3F#7
  d1 := 0x06#7
  d2 := 0x5B#7
  d3 := 0x4F#7
  d4 := 0x66#7
  d6 := 0x7D#7
  d7 := 0x07#7
  d8 := 0x7F#7
  d9 := 0x6F#7

/-- R6, the *vector instance* column: the instance 95_test_vectors.md uses, not a value the hardware is known to
have. The two durations may be any positive number there. -/
def Config.vectors : Config where
  raiseOrder := .dioFirst
  clkPin := 1#8
  dioPin := 2#8
  digitLut := Config.usualLut
  charMap := [(0x41#8, 0x77#7), (0x42#8, 0x7C#7)]
  bufReset := ⟨0#8, 0#8, 0#8, 0#8⟩
  lvlReset := ⟨false, false⟩
  tSettle := 1
  tScroll := 1

end Sys2Proof
end

