-- ==== Sys2Proof/Syntax.lean ====
section
/-! DEFINITION. The operations of 30_encoding.md R91 and the wire bytes of R100 as one inductive type, one constructor
for each row of spec/opcode_table.json, and the encoded forms an operation arrives in. -/

namespace Sys2Proof

/-- R11: the two lines. -/
inductive Line where
  | clk
  | dio
  deriving DecidableEq, Repr

/-- R11: the direction of a line (`Out`, `In`). -/
inductive Dir where
  | output
  | input
  deriving DecidableEq, Repr

/-- The rows of the opcode table. Operands are what R94 and R95 say the operation reads: a line, a direction, a
boolean, or a whole unsigned byte that the meaning reduces. -/
inductive Instr where
  /-- R122 drive-high(line). -/
  | drvh (l : Line)
  /-- R123 drive-low(line). -/
  | drvl (l : Line)
  /-- R124 set-direction(line, output or input). -/
  | setDir (l : Line) (d : Dir)
  /-- R125 read(line). -/
  | read (l : Line)
  /-- R143 start(). -/
  | start
  /-- R144 write-byte(value). -/
  | wrByte (value : Byte)
  /-- R149 stop(). -/
  | stop
  /-- R150 command(value). -/
  | command (value : Byte)
  /-- R174 write-segment(position, raw-segments). -/
  | wrSeg (position raw : Byte)
  /-- R177 set-colon(boolean). -/
  | setColon (flag : Bool)
  /-- R179 set-brightness(value). -/
  | setBrt (value : Byte)
  /-- R180 set-enabled(boolean). -/
  | setEn (flag : Bool)
  /-- R182 clear(). -/
  | clear
  /-- R183 init(clock-line-id, data-line-id). -/
  | init (clkPin dioPin : Byte)
  /-- R186 display-digit(position, digit). -/
  | dispDigit (position digit : Byte)
  /-- R201 digit-to-segments(d). -/
  | dig2Seg (d : Byte)
  /-- R204 char-to-segments(c). -/
  | chr2Seg (c : Byte)
  /-- R101 the data command byte `01000f00` put on the wire. -/
  | wireDataCmd (f : Bool)
  /-- R102 the address command byte `110000pp` put on the wire. -/
  | wireAddrCmd (p : Pos)
  /-- R103 the display control command byte `1000ebbb` put on the wire. -/
  | wireCtrlCmd (e : Bool) (b : BitVec 3)
  /-- R104 the segment byte `cggggggg` put on the wire. -/
  | wireSegByte (c : Bool) (g : BitVec 7)
  deriving DecidableEq, Repr

/-- R99: a segment byte carries no tag, it is one by its place: after an address command inside the same frame. So a
wire byte is read together with its place. -/
inductive Slot where
  | command
  | segment
  deriving DecidableEq, Repr

/-- An encoded operation: a host command word (R90), or a wire byte with its place in the frame (R99). -/
inductive Code where
  | cmd (w : CmdWord)
  | wire (slot : Slot) (v : Byte)
  deriving DecidableEq, Repr

end Sys2Proof
end

