-- ==== Sys2Proof/WellFormed.lean ====
section
/-! DEFINITION. What is well formed. An `Instr` is well formed by its types alone: every line, direction, boolean and
byte operand is legal (30_encoding.md R94, R95: reduced, never rejected). The checks with content are those of the
encoded form (canonical: R96, R97, R100) and of the parameters (R6, R205). -/

namespace Sys2Proof

/-- R95: no operand value is rejected, so every term of every constructor is well formed. -/
def Instr.wellFormed (i : Instr) : Bool :=
  match i with
  | .drvh _ => true
  | .drvl _ => true
  | .setDir _ _ => true
  | .read _ => true
  | .start => true
  | .wrByte _ => true
  | .stop => true
  | .command _ => true
  | .wrSeg _ _ => true
  | .setColon _ => true
  | .setBrt _ => true
  | .setEn _ => true
  | .clear => true
  | .init _ _ => true
  | .dispDigit _ _ => true
  | .dig2Seg _ => true
  | .chr2Seg _ => true
  | .wireDataCmd _ => true
  | .wireAddrCmd _ => true
  | .wireCtrlCmd _ _ => true
  | .wireSegByte _ _ => true

/-- R91, R96: which bits of a command word the operation with this opcode reads, the opcode bits among them; `none`
for a reserved opcode (R97). -/
def usedBits (op : Byte) : Option CmdWord :=
  match op with
  | 0x10#8 => some 0xFF0100#24
  | 0x11#8 => some 0xFF0100#24
  | 0x12#8 => some 0xFF0300#24
  | 0x13#8 => some 0xFF0100#24
  | 0x20#8 => some 0xFF0000#24
  | 0x21#8 => some 0xFF00FF#24
  | 0x22#8 => some 0xFF0000#24
  | 0x23#8 => some 0xFF00FF#24
  | 0x30#8 => some 0xFFFFFF#24
  | 0x31#8 => some 0xFF0100#24
  | 0x32#8 => some 0xFF00FF#24
  | 0x33#8 => some 0xFF0100#24
  | 0x34#8 => some 0xFF0000#24
  | 0x35#8 => some 0xFFFFFF#24
  | 0x36#8 => some 0xFFFFFF#24
  | 0x40#8 => some 0xFF00FF#24
  | 0x41#8 => some 0xFF00FF#24
  | _ => none

/-- R100: the byte is one of the three command patterns `01000f00`, `110000pp`, `1000ebbb`. -/
def isWireCommand (v : Byte) : Bool :=
  v &&& 0xFB#8 == 0x40#8 || v &&& 0xFC#8 == 0xC0#8 || v &&& 0xF0#8 == 0x80#8

/-- The encoded form is canonical: its opcode is not reserved (R97), the operand bits its operation does not use are 0
(R96), and a byte in a command slot is a wire command (R100). -/
def Code.wellFormed (c : Code) : Bool :=
  match c with
  | .cmd w =>
    match usedBits (w.extractLsb' 16 8) with
    | some mask => w &&& mask == w
    | none => false
  | .wire .command v => isWireCommand v
  | .wire .segment _ => true

/-- R6, R205: both durations are positive, the map names no digit code 0x30..0x39 and no code twice. -/
def Config.wellFormed (c : Config) : Bool :=
  decide (0 < c.tSettle) && decide (0 < c.tScroll)
    && c.charMap.all (fun e => !(0x30#8 ≤ e.1 && e.1 ≤ 0x39#8))
    && decide (c.charMap.map Prod.fst).Nodup

end Sys2Proof
end

