-- ==== Sys2Proof/Decode.lean ====
section
/-! DEFINITION. The decoder (30_encoding.md R90 to R97, R99, R100), total, rejecting by name, and the encoder. -/

namespace Sys2Proof

/-- What the decoder answers: an operation, or why there is none. -/
inductive Decoded where
  | ok (i : Instr)
  /-- R97: the opcode is reserved. -/
  | reserved (op : Byte)
  /-- R100, R105: a byte in a command slot that is none of the three commands. -/
  | noCommand (v : Byte)
  deriving DecidableEq, Repr

/-- R90: the opcode field `cw[23:16]`. -/
def opField (w : CmdWord) : Byte := w.extractLsb' 16 8

/-- R90: the first operand byte `cw[15:8]`. -/
def aField (w : CmdWord) : Byte := w.extractLsb' 8 8

/-- R90: the second operand byte `cw[7:0]`. -/
def bField (w : CmdWord) : Byte := w.extractLsb' 0 8

/-- R94: a line operand is bit 0 of `a`: 0 is `CLK`, 1 is `DIO`. -/
def lineOperand (a : Byte) : Line := if a.getLsbD 0 then .dio else .clk

/-- R94: a direction operand is bit 1 of `a`: 0 is `Out`, 1 is `In`. -/
def dirOperand (a : Byte) : Dir := if a.getLsbD 1 then .input else .output

/-- R94: a boolean operand is bit 0 of `a`. -/
def flagOperand (a : Byte) : Bool := a.getLsbD 0

/-- R91: the operation an opcode selects, with operand bytes `a` and `b`; R97: any other opcode is reserved. -/
def decodeFields (op a b : Byte) : Decoded :=
  match op with
  | 0x10#8 => .ok (.drvh (lineOperand a))
  | 0x11#8 => .ok (.drvl (lineOperand a))
  | 0x12#8 => .ok (.setDir (lineOperand a) (dirOperand a))
  | 0x13#8 => .ok (.read (lineOperand a))
  | 0x20#8 => .ok .start
  | 0x21#8 => .ok (.wrByte b)
  | 0x22#8 => .ok .stop
  | 0x23#8 => .ok (.command b)
  | 0x30#8 => .ok (.wrSeg a b)
  | 0x31#8 => .ok (.setColon (flagOperand a))
  | 0x32#8 => .ok (.setBrt b)
  | 0x33#8 => .ok (.setEn (flagOperand a))
  | 0x34#8 => .ok .clear
  | 0x35#8 => .ok (.init a b)
  | 0x36#8 => .ok (.dispDigit a b)
  | 0x40#8 => .ok (.dig2Seg b)
  | 0x41#8 => .ok (.chr2Seg b)
  | _ => .reserved op

/-- R100: a byte in a command slot, told apart by its fixed bits: `01000f00`, `110000pp`, `1000ebbb`. -/
def decodeWireCommand (v : Byte) : Decoded :=
  if v.extractLsb' 3 5 = 0b01000#5 ∧ v.extractLsb' 0 2 = 0b00#2 then
    .ok (.wireDataCmd (v.getLsbD 2))
  else if v.extractLsb' 2 6 = 0b110000#6 then
    .ok (.wireAddrCmd (v.extractLsb' 0 2))
  else if v.extractLsb' 4 4 = 0b1000#4 then
    .ok (.wireCtrlCmd (v.getLsbD 3) (v.extractLsb' 0 3))
  else .noCommand v

/-- R104: a byte in a segment slot, `cggggggg`. -/
def decodeWireSegment (v : Byte) : Decoded :=
  .ok (.wireSegByte (v.getLsbD 7) (v.extractLsb' 0 7))

/-- The decoder. -/
def decode (c : Code) : Decoded :=
  match c with
  | .cmd w => decodeFields (opField w) (aField w) (bField w)
  | .wire .command v => decodeWireCommand v
  | .wire .segment v => decodeWireSegment v

/-- R90, R106: the command word `op<<16 | a<<8 | b`. -/
def cmdWord (op a b : Byte) : CmdWord := op ++ a ++ b

/-- R94, R106: the operand bit of a line. -/
def lineBit (l : Line) : BitVec 1 :=
  match l with
  | .clk => 0#1
  | .dio => 1#1

/-- R94, R106: the operand bit of a direction. -/
def dirBit (d : Dir) : BitVec 1 :=
  match d with
  | .output => 0#1
  | .input => 1#1

/-- R94: the operand bit of a boolean. -/
def flagBit (f : Bool) : BitVec 1 := if f then 1#1 else 0#1

/-- R96, R106: the canonical encoding, unused operand bits 0; the wire bytes by the patterns of R100, in the slot R99
gives them. -/
def encode (i : Instr) : Code :=
  match i with
  | .drvh l => .cmd (cmdWord 0x10#8 (0#7 ++ lineBit l) 0#8)
  | .drvl l => .cmd (cmdWord 0x11#8 (0#7 ++ lineBit l) 0#8)
  | .setDir l d => .cmd (cmdWord 0x12#8 (0#6 ++ dirBit d ++ lineBit l) 0#8)
  | .read l => .cmd (cmdWord 0x13#8 (0#7 ++ lineBit l) 0#8)
  | .start => .cmd (cmdWord 0x20#8 0#8 0#8)
  | .wrByte v => .cmd (cmdWord 0x21#8 0#8 v)
  | .stop => .cmd (cmdWord 0x22#8 0#8 0#8)
  | .command v => .cmd (cmdWord 0x23#8 0#8 v)
  | .wrSeg p r => .cmd (cmdWord 0x30#8 p r)
  | .setColon f => .cmd (cmdWord 0x31#8 (0#7 ++ flagBit f) 0#8)
  | .setBrt v => .cmd (cmdWord 0x32#8 0#8 v)
  | .setEn f => .cmd (cmdWord 0x33#8 (0#7 ++ flagBit f) 0#8)
  | .clear => .cmd (cmdWord 0x34#8 0#8 0#8)
  | .init c d => .cmd (cmdWord 0x35#8 c d)
  | .dispDigit p d => .cmd (cmdWord 0x36#8 p d)
  | .dig2Seg d => .cmd (cmdWord 0x40#8 0#8 d)
  | .chr2Seg c => .cmd (cmdWord 0x41#8 0#8 c)
  | .wireDataCmd f => .wire .command (0b01000#5 ++ flagBit f ++ 0b00#2)
  | .wireAddrCmd p => .wire .command (0b110000#6 ++ p)
  | .wireCtrlCmd e b => .wire .command (0b1000#4 ++ flagBit e ++ b)
  | .wireSegByte c g => .wire .segment (flagBit c ++ g)

/-- The encoded form of an instruction of the opcode table whose bits are `w`: 24 bits are a command word, 8 bits a
wire byte. An 8-bit word alone has no place in a frame: one that is a wire command is read as in a command slot, any
other as in a segment slot (log 12). -/
def codeOfTableWord (nbits w : Nat) : Option Code :=
  if nbits = 24 then some (.cmd (BitVec.ofNat 24 w))
  else if nbits = 8 then
    let v := BitVec.ofNat 8 w
    some (.wire (if isWireCommand v then .command else .segment) v)
  else none

/-- What the decoder reads from an instruction of `nbits` bits numbered as spec/opcode_table.json numbers them; a
command word is one parallel word (R90), so its bits are the word's own. -/
def decodeTableWord (nbits w : Nat) : Option Instr :=
  match codeOfTableWord nbits w with
  | some c =>
    match decode c with
    | .ok i => some i
    | .reserved _ => none
    | .noCommand _ => none
  | none => none

end Sys2Proof
end

