-- ==== Sys2Proof/Machine/State.lean ====
section
/-! DEFINITION. The state of the engine as plain data (10_state.md R20 to R43), the reasons a step can stop, and the
state after hardware reset (R45). Field names follow the spec's. -/

namespace Sys2Proof.Machine

/-- R29: the frame protocol machine. -/
inductive FState where
  | idle
  | framed
  | transmitting
  deriving DecidableEq, Repr

/-- R13: the events of the line trace. -/
inductive Event where
  /-- `Drv(L, b)`: the engine set the output latch of line `L` to level `b`. -/
  | drv (l : Line) (b : Bit)
  /-- `Dir(L, d)`: the engine set the direction of line `L`. -/
  | dir (l : Line) (d : Dir)
  /-- `Rd(L, b)`: the engine sampled line `L` and the oracle answered `b`. -/
  | rd (l : Line) (b : Bit)
  /-- `Dly`: one settling delay elapsed. -/
  | dly
  deriving DecidableEq, Repr

/-- R13: the symbols of the wire trace, `S`, `B(v, a)` and `P`. -/
inductive Sym where
  | start
  | byte (v : Byte) (ack : Bit)
  | stop
  deriving DecidableEq, Repr

/-- R236: why a caller contract violation was recorded. -/
inductive Reason where
  | startInOpenFrame
  | byteOutsideFrame
  | stopOutsideFrame
  | notInitialised
  | samePin
  | rawLineOp
  deriving DecidableEq, Repr

/-- R126: what answers the reads. `acking` and `absent` are the two oracles the spec names; `script` gives the answers
of the first reads since reset, and every later answer is a free value (log 3). -/
inductive Oracle where
  | acking
  | absent
  | script (answers : List Bit)
  deriving DecidableEq, Repr

/-- R8, R24: what the sequencer performs. The first six are the micro-steps of an operation's list, each one line event
or one delay; the others are the register transfers and ghost checks the pseudocode writes between them. -/
inductive Uop where
  /-- Micro-step DRVH or DRVL of a line (R122, R123). -/
  | drv (l : Line) (b : Bit)
  /-- Micro-step `B2(i)`: DRVH or DRVL of `DIO` by `shreg[0]` (R144). -/
  | drvBit
  /-- Micro-step SETDIR (R124). -/
  | setDir (l : Line) (d : Dir)
  /-- Micro-step READ (R125). -/
  | read (l : Line)
  /-- Micro-step `Dly` (R128). -/
  | dly
  /-- `NotInitialised` when `inited = 0` (R236). -/
  | checkInit
  /-- START: `StartInOpenFrame` when `fstate` is not `Idle` (R143). -/
  | checkNoFrame
  /-- WRBYTE, STOP: this reason when `fstate` is `Idle` (R144, R149). -/
  | checkFrame (r : Reason)
  /-- INIT: `SamePin` when the two pins are equal (R185). -/
  | checkPins (c d : Byte)
  /-- `violation(RawLineOp)` (R236). -/
  | violateRaw
  /-- WRBYTE: `fstate <- Transmitting; shreg <- value; bitcnt <- 0` (R144). -/
  | enterByte (v : Byte)
  /-- WRBYTE: `shreg <- zext_8(shreg[7:1]); bitcnt <- bitcnt + 1` (R144). -/
  | shift
  /-- WRBYTE: `ack_q <- ack; bitcnt <- 0` (R144). -/
  | latchAck
  /-- `fstate <- f`. -/
  | setFState (f : FState)
  /-- `emit_w(S)`, and the START is counted (log 4). -/
  | emitStart
  /-- `emit_w(B(v, ack))`. -/
  | emitByte (v : Byte)
  /-- `emit_w(P)`. -/
  | emitStop
  /-- `buf[p] <- v` (R172). -/
  | writeBuf (p : Pos) (v : Byte)
  /-- `colon <- f` (R177). -/
  | setColon (f : Bool)
  /-- `brightness <- b` (R179). -/
  | setBrightness (b : BitVec 3)
  /-- `enabled <- f` (R180). -/
  | setEnabled (f : Bool)
  /-- INIT step 1: `clk_pin <- c; dio_pin <- d` (R183). -/
  | bindPins (c d : Byte)
  /-- INIT step 3: the defaults, `fstate <- Idle`, `inited <- 1` (R183). -/
  | loadDefaults
  /-- The result byte (R93). -/
  | result (v : Byte)
  /-- The result byte `zext_8` of the level just sampled (R93). -/
  | resultSample
  deriving DecidableEq, Repr

/-- The engine. The last eight fields are the model's own (INVENTORY.md '## State'). -/
structure State where
  /-- R25: the output latches. -/
  lvl : PerLine Bit
  /-- R26: the directions. -/
  dir : PerLine Dir
  /-- R28: the pin the clock line is bound to. -/
  clkPin : Byte
  /-- R28: the pin the data line is bound to. -/
  dioPin : Byte
  /-- R29: the frame state. -/
  fstate : FState
  /-- R22: the bits of the current byte not yet sent. -/
  shreg : Byte
  /-- R23: how many bits of the current byte are sent, 0..8. -/
  bitcnt : BitVec 4
  /-- R24: an operation is running. -/
  busy : Bool
  /-- R24: the index of the next micro-step of the running operation. -/
  useq : Option Nat
  /-- R30: the most recent ACK sample, 0 = acknowledged. -/
  ackQ : Bit
  /-- R31: the display buffer. -/
  buf : Cells
  /-- R32: 3 bits. -/
  brightness : BitVec 3
  /-- R33. -/
  enabled : Bool
  /-- R34. -/
  colon : Bool
  /-- R40: the sticky ghost flag of a contract violation. -/
  viol : Bool
  /-- R234, R236: the reasons recorded, each once (log 9). -/
  reasons : List Reason
  /-- R43: INIT has run. -/
  inited : Bool
  /-- R41: the line events since hardware reset, oldest first. -/
  ltrace : List Event
  /-- R42: the wire symbols since hardware reset, oldest first. -/
  wtrace : List Sym
  /-- R93: the result byte last delivered (log 7). -/
  res : Byte
  /-- R24: what the running operation has still to perform (log 15). -/
  prog : List Uop
  /-- R125, R144: the pseudocode's local variable holding the last read's answer (log 8). -/
  sample : Bit
  /-- R44: the words the host has still to issue (log 13). -/
  pending : List Code
  /-- R126: what answers the reads (log 3). -/
  oracle : Oracle
  /-- How many reads have been answered (log 3). -/
  reads : Nat
  /-- How many STARTs have run (log 4). -/
  starts : Nat
  /-- R6: the parameters, constant (log 2). -/
  cfg : Config
  deriving DecidableEq, Repr

/-- R230: the engine raises no exception and no operation stops it, so there is no fault. -/
inductive Fault where
  deriving DecidableEq, Repr

/-- Why a step gives no next state. -/
inductive Refusal where
  /-- An arm of `exec` that has no meaning yet; no arm of this model raises it. Safe. -/
  | notModelled (mnemonic : String)
  /-- R97, U9: `step` met a command word with a reserved opcode: refused, no meaning and no step. Safe. -/
  | reservedOpcode (op : Byte)
  /-- R105: `step` met a byte in a command slot of a frame that is none of the three wire commands, so no row of the
  opcode table (log 12). Safe. -/
  | noWireCommand (v : Byte)
  deriving DecidableEq, Repr

/-- R45: the state after hardware reset with these parameters. -/
def State.resetWith (c : Config) : State where
  lvl := c.lvlReset
  dir := ⟨.input, .input⟩
  clkPin := c.clkPin
  dioPin := c.dioPin
  fstate := .idle
  shreg := 0x00#8
  bitcnt := 0#4
  busy := false
  useq := none
  ackQ := true
  buf := c.bufReset
  brightness := Config.defaultBrightness
  enabled := Config.defaultEnabled
  colon := false
  viol := false
  reasons := []
  inited := false
  ltrace := []
  wtrace := []
  res := 0x00#8
  prog := []
  sample := false
  pending := []
  oracle := .script []
  reads := 0
  starts := 0
  cfg := c

/-- R45: the state after hardware reset of the engine at hand, whose open parameters nothing is known of. -/
def State.reset : State := State.resetWith Config.chosen

end Sys2Proof.Machine
end

