-- ==== Sys2Proof/Machine/Operands.lean ====
section
/-! DEFINITION. Every operand form and every computation the operations make on operands (00_scope.md R19): access by
line and by position, the reductions of 30_encoding.md R95, the wire bytes of R100 to R104, the tables and the colon
overlay of 43_encoder.md R201 to R208. -/

namespace Sys2Proof

/-- The value kept for a line. -/
def PerLine.get {α : Type} (x : PerLine α) (l : Line) : α :=
  match l with
  | .clk => x.clk
  | .dio => x.dio

/-- Replace the value kept for a line. -/
def PerLine.set {α : Type} (x : PerLine α) (l : Line) (v : α) : PerLine α :=
  match l with
  | .clk => { x with clk := v }
  | .dio => { x with dio := v }

/-- R65: the cell at a position. -/
def Cells.get (c : Cells) (p : Pos) : Byte :=
  if p = 0#2 then c.p0 else if p = 1#2 then c.p1 else if p = 2#2 then c.p2 else c.p3

/-- R65: replace the cell at a position. -/
def Cells.set (c : Cells) (p : Pos) (v : Byte) : Cells :=
  if p = 0#2 then { c with p0 := v }
  else if p = 1#2 then { c with p1 := v }
  else if p = 2#2 then { c with p2 := v }
  else { c with p3 := v }

end Sys2Proof

namespace Sys2Proof.Machine

/-- R65, R95: `p = a mod 4 = a[1:0]`. -/
def position (a : Byte) : Pos := a.extractLsb' 0 2

/-- R95, R179: `b & 0x07 = b[2:0]`, the 3 bits the register holds (R32). -/
def maskBrightness (b : Byte) : BitVec 3 := (b &&& 0x07#8).extractLsb' 0 3

/-- R19: `zext_8` of a bit. -/
def byteOfBit (b : Bit) : Byte := if b then 0x01#8 else 0x00#8

/-- R6 `COLON_POS`. -/
def colonPos : Pos := 1#2

/-- R6 `COLON_BIT`, the mask 0x80. -/
def colonMask : Byte := 0x80#8

/-- R101: the data command, `0x40` OR the fixed-address flag `0x04`. -/
def dataCommandByte (fixedAddress : Bool) : Byte := 0x40#8 ||| (if fixedAddress then 0x04#8 else 0x00#8)

/-- R102: the address command, `0xC0 | p`. -/
def addressCommandByte (p : Pos) : Byte := 0xC0#8 ||| p.setWidth 8

/-- R35, R103: the display control command, `0x80 | brightness | (0x08 if enabled else 0x00)`. -/
def controlByte (enabled : Bool) (brightness : BitVec 3) : Byte :=
  0x80#8 ||| brightness.setWidth 8 ||| (if enabled then 0x08#8 else 0x00#8)

/-- R104: a segment byte from its colon overlay and its segment selects. -/
def segmentByte (colon : Bool) (segments : BitVec 7) : Byte :=
  (if colon then colonMask else 0x00#8) ||| segments.setWidth 8

/-- R201, R202: `DIGIT_LUT[d] if d <= 9 else 0x00`; entry 5 is 0x6D, the others are parameters. -/
def digitSegments (t : DigitLut) (d : Byte) : Byte :=
  match d with
  | 0#8 => t.d0.setWidth 8
  | 1#8 => t.d1.setWidth 8
  | 2#8 => t.d2.setWidth 8
  | 3#8 => t.d3.setWidth 8
  | 4#8 => t.d4.setWidth 8
  | 5#8 => 0x6D#8
  | 6#8 => t.d6.setWidth 8
  | 7#8 => t.d7.setWidth 8
  | 8#8 => t.d8.setWidth 8
  | 9#8 => t.d9.setWidth 8
  | _ => 0x00#8

/-- R205: `CHAR_MAP[c]`, or the blank 0x00 outside its domain; the first row of a code counts. -/
def mapSegments (m : List (Byte × BitVec 7)) (c : Byte) : Byte :=
  match m with
  | [] => 0x00#8
  | (k, v) :: rest => if k = c then v.setWidth 8 else mapSegments rest c

/-- R204: the digits by the digit table, then the map, then blank. -/
def charSegments (cfg : Config) (c : Byte) : Byte :=
  if 0x30#8 ≤ c ∧ c ≤ 0x39#8 then digitSegments cfg.digitLut (c - 0x30#8)
  else mapSegments cfg.charMap c

/-- R208: `raw | 0x80` at position 1 with the colon on, `raw` otherwise. -/
def compose (p : Pos) (raw : Byte) (colon : Bool) : Byte :=
  if p = colonPos ∧ colon = true then raw ||| colonMask else raw

/-- R176, R177: the base value of position 1 with the colon bit included or excluded. -/
def overlayColon (cell : Byte) (f : Bool) : Byte :=
  (cell &&& 0x7F#8) ||| (if f then colonMask else 0x00#8)

/-- R27: the level on the wire: the latch when the line is an output; chosen by the environment (`none`) when it is an
input. -/
def State.wire (s : State) (l : Line) : Option Bit :=
  match s.dir.get l with
  | .output => some (s.lvl.get l)
  | .input => none

/-- R35: the display control byte, a function of the two registers. -/
def State.ctrl (s : State) : Byte := controlByte s.enabled s.brightness

/-- R38: the test-only read of the display buffer; no operation, no effect. -/
def State.readBuf (s : State) (p : Pos) : Byte := s.buf.get p

/-- R37: `fstate` as the host sees it: 0, 1, 2; 3 never occurs. -/
def FState.code (f : FState) : BitVec 2 :=
  match f with
  | .idle => 0#2
  | .framed => 1#2
  | .transmitting => 2#2

/-- R37: the three status outputs `busy`, `ack_q`, `fstate`. -/
def State.status (s : State) : Bool × Bit × BitVec 2 := (s.busy, s.ackQ, s.fstate.code)

end Sys2Proof.Machine
end

