-- ==== Sys2Proof/Machine/Flags.lean ====
section
/-! DEFINITION. The flags: the engine has one status flag, `ack_q` (10_state.md R30), and no condition codes; the ghost
flag `viol` with its recorded reasons (60_exceptions.md R234, R236, R237) takes the place an exception has elsewhere
(R235: nothing is saved, no mode changes, control goes nowhere). -/

namespace Sys2Proof.Machine

/-- R236: `violation(reason)`: `viol <- 1` and the reason is recorded, each reason once (log 9). -/
def violation (r : Reason) (s : State) : State :=
  { s with viol := true, reasons := if r ∈ s.reasons then s.reasons else s.reasons ++ [r] }

/-- A violation that has a condition. -/
def violateIf (c : Bool) (r : Reason) (s : State) : State := if c then violation r s else s

/-- R43, R236: `NotInitialised` when `inited = 0`. -/
def checkInit (s : State) : State := violateIf (!s.inited) .notInitialised s

/-- R143: `if fstate != Idle then violation(StartInOpenFrame)`. -/
def checkNoFrame (s : State) : State := violateIf (decide (s.fstate ≠ .idle)) .startInOpenFrame s

/-- R144, R149: `if fstate = Idle then violation(r)`. -/
def checkFrame (r : Reason) (s : State) : State := violateIf (decide (s.fstate = .idle)) r s

/-- R185: `if c = d then violation(SamePin)`. -/
def checkPins (c d : Byte) (s : State) : State := violateIf (decide (c = d)) .samePin s

/-- R30, R144: `ack_q <- ack; bitcnt <- 0` at the end of WRBYTE. -/
def latchAck (s : State) : State := { s with ackQ := s.sample, bitcnt := 0#4 }

end Sys2Proof.Machine
end

