-- ==== Sys2Proof/Machine/Ops.lean ====
section
/-! DEFINITION. The named operations everything is built from: the line events (40_line_transport.md R122 to R128), the
oracle (R126), one micro-operation of the sequencer, and the scripts that put micro-operations in order.

The engine raises no exception and has no trap entry and no return from one (60_exceptions.md R230, R235); what the
spec puts in their place is `violation` of Flags.lean, which lets the operation run on. -/

namespace Sys2Proof.Machine

/-- `emit_l(e)` (R12). -/
def emitL (e : Event) (s : State) : State := { s with ltrace := s.ltrace ++ [e] }

/-- `emit_w(x)` (R12). -/
def emitW (x : Sym) (s : State) : State := { s with wtrace := s.wtrace ++ [x] }

/-- R122, R123: `lvl[L] <- b; emit_l(Drv(L, b))`. -/
def drive (l : Line) (b : Bit) (s : State) : State := emitL (.drv l b) { s with lvl := s.lvl.set l b }

/-- R124: `dir[L] <- d; emit_l(Dir(L, d))`. -/
def direct (l : Line) (d : Dir) (s : State) : State := emitL (.dir l d) { s with dir := s.dir.set l d }

/-- R126: the answer to the read that is `k` reads after the reads made so far (log 3). -/
def State.answer (s : State) (k : Nat) : Bit :=
  match s.oracle with
  | .acking => false
  | .absent => true
  | .script l => (l[s.reads + k]?).getD (Config.freeLevel (s.reads + k))

/-- R125: `b <- env_read(L); emit_l(Rd(L, b))`. -/
def sampleLine (l : Line) (s : State) : State :=
  emitL (.rd l (s.answer 0)) { s with sample := s.answer 0, reads := s.reads + 1 }

/-- R24: `useq` advances by exactly one per micro-step. -/
def advance (s : State) : State := { s with useq := s.useq.map (· + 1) }

/-- One micro-operation. -/
def run (u : Uop) (s : State) : State :=
  match u with
  | .drv l b => advance (drive l b s)
  | .drvBit => advance (drive .dio (s.shreg.getLsbD 0) s)
  | .setDir l d => advance (direct l d s)
  | .read l => advance (sampleLine l s)
  | .dly => advance (emitL .dly s)
  | .checkInit => checkInit s
  | .checkNoFrame => checkNoFrame s
  | .checkFrame r => checkFrame r s
  | .checkPins c d => checkPins c d s
  | .violateRaw => violation .rawLineOp s
  | .enterByte v => { s with fstate := .transmitting, shreg := v, bitcnt := 0#4 }
  | .shift => { s with shreg := s.shreg >>> 1, bitcnt := s.bitcnt + 1#4 }
  | .latchAck => latchAck s
  | .setFState f => { s with fstate := f }
  | .emitStart => { emitW .start s with starts := s.starts + 1 }
  | .emitByte v => emitW (.byte v s.sample) s
  | .emitStop => emitW .stop s
  | .writeBuf p v => { s with buf := s.buf.set p v }
  | .setColon f => { s with colon := f }
  | .setBrightness b => { s with brightness := b }
  | .setEnabled f => { s with enabled := f }
  | .bindPins c d => { s with clkPin := c, dioPin := d }
  | .loadDefaults =>
    { s with
      brightness := Config.defaultBrightness, enabled := Config.defaultEnabled, fstate := .idle, inited := true }
  | .result v => { s with res := v }
  | .resultSample => { s with res := byteOfBit s.sample }

/-- Micro-operations in list order. -/
def runAll (us : List Uop) (s : State) : State :=
  match us with
  | [] => s
  | u :: rest => runAll rest (run u s)

/-- A script: from the state it starts in, the flattened list of the micro-operations it performs (R18, R24) and the
state they end in. -/
abbrev Script := State → List Uop × State

/-- A fixed list. -/
def perform (us : List Uop) : Script := fun s => (us, runAll us s)

/-- Nothing. -/
def nothing : Script := fun s => ([], s)

/-- One script after another: the textual inclusion of R18. -/
def andThen (f g : Script) : Script := fun s => ((f s).1 ++ (g (f s).2).1, (g (f s).2).2)

/-- Several scripts in order. -/
def inOrder (fs : List Script) : Script :=
  match fs with
  | [] => nothing
  | f :: rest => andThen f (inOrder rest)

/-- A script that depends on the registers at the moment it is called. -/
def reading (k : State → Script) : Script := fun s => k s s

/-- R92: the engine accepts a word: `busy <- 1`, and `useq` counts from 0. -/
def accept (s : State) : State := { s with busy := true, useq := some 0 }

/-- R24, R92: the last micro-step is done: `busy <- 0` and `useq` has no value. -/
def complete (s : State) : State := { s with busy := false, useq := none }

/-- R8, R92: one whole operation: accepted, run to completion, completed. -/
def operate (f : Script) (s : State) : State := complete (f (accept s)).2

end Sys2Proof.Machine
end

