-- ==== Sys2Proof/Machine/Frame.lean ====
section
/-! DEFINITION. The frame protocol: the start/stop generator, the bit-framer and ACK detector, and the one-byte frame
(41_frame_protocol.md R140 to R153). The parts without a result byte are the ones other operations call. -/

namespace Sys2Proof.Machine

/-- R142: whether the next START raises the data line first: by the parameter, and under `both` by a free value for
each START (log 4). -/
def dioFirst (s : State) : Bool :=
  match s.cfg.raiseOrder with
  | .dioFirst => true
  | .clkFirst => false
  | .both => Config.freeDioFirst s.starts

/-- R142: micro-steps `S1`, `S2`. -/
def raises (dioIsFirst : Bool) : List Uop :=
  if dioIsFirst then [.drv .dio true, .drv .clk true] else [.drv .clk true, .drv .dio true]

/-- R143: START, without its result. -/
def startFrame : Script :=
  reading fun s => perform
    ([.checkNoFrame] ++ raises (dioFirst s) ++ [.dly, .drv .dio false, .setFState .framed, .emitStart])

/-- R145: micro-steps `B1(i)` to `B5(i)` and the shift that follows them. -/
def bitUops : List Uop := [.drv .clk false, .drvBit, .dly, .drv .clk true, .dly, .shift]

/-- R145: the bit loop, eight times. -/
def bitLoop : List Uop := bitUops ++ bitUops ++ bitUops ++ bitUops ++ bitUops ++ bitUops ++ bitUops ++ bitUops

/-- R146: micro-steps `A1` to `A9`. -/
def ackSlot : List Uop :=
  [.drv .clk false, .setDir .dio .input, .dly, .read .dio, .dly, .drv .clk true, .dly, .drv .clk false,
    .setDir .dio .output]

/-- R144: WRBYTE, without its result; the frame machine returns to `Idle` if it began there, else to `Framed`. -/
def sendByte (v : Byte) : Script :=
  reading fun s => perform
    ([.checkFrame .byteOutsideFrame, .enterByte v] ++ bitLoop ++ ackSlot
      ++ [.latchAck, .setFState (if s.fstate = .idle then .idle else .framed), .emitByte v])

/-- R149: STOP, without its result. -/
def stopFrame : Script :=
  perform [.checkFrame .stopOutsideFrame, .drv .clk false, .dly, .drv .dio false, .dly, .drv .clk true, .dly,
    .drv .dio true, .setFState .idle, .emitStop]

/-- R150: COMMAND, without its result: `call START; call WRBYTE(value); call STOP`. -/
def sendCommand (v : Byte) : Script := inOrder [startFrame, sendByte v, stopFrame]

/-- An operation of the frame or display layer that delivers 0x00 (R93), with the check of R236 at its start. -/
def hostOp (body : Script) : Script :=
  inOrder [perform [.checkInit], body, perform [.result 0x00#8]]

/-- R143. -/
def startScript : Script := hostOp startFrame

/-- R144: the result is `zext_8(ack)`. -/
def wrByteScript (v : Byte) : Script := inOrder [perform [.checkInit], sendByte v, perform [.resultSample]]

/-- R149. -/
def stopScript : Script := hostOp stopFrame

/-- R150. -/
def commandScript (v : Byte) : Script := hostOp (sendCommand v)

/-- START (R143). -/
def execStart (s : State) : Host.Outcome State Fault Refusal := .next (operate startScript s)

/-- WRBYTE (R144). -/
def execWrByte (v : Byte) (s : State) : Host.Outcome State Fault Refusal := .next (operate (wrByteScript v) s)

/-- STOP (R149). -/
def execStop (s : State) : Host.Outcome State Fault Refusal := .next (operate stopScript s)

/-- COMMAND (R150). -/
def execCommand (v : Byte) (s : State) : Host.Outcome State Fault Refusal := .next (operate (commandScript v) s)

end Sys2Proof.Machine
end

