-- ==== Sys2Proof/Machine/Display.lean ====
section
/-! DEFINITION. The display-state sequencer (42_display_state.md R170 to R187): the data-write transaction and the
control refresh, and the operations built from them. -/

namespace Sys2Proof.Machine

/-- R172: `DATAWR(p, v)`, which is `MemWrite(p, 1, v)`; the cache is updated whatever the ACK samples were. -/
def dataWrite (p : Pos) (v : Byte) : Script :=
  inOrder [sendCommand (dataCommandByte true), startFrame, sendByte (addressCommandByte p), sendByte v, stopFrame,
    perform [.writeBuf p v]]

/-- R173: `CTRLREF`, the control byte read from the registers at the moment of the call. -/
def controlRefresh : Script := reading fun s => sendCommand s.ctrl

/-- R174: WRSEG, without its result: the position is reduced, the colon overlaid, the cache compared; then in all
cases the control refresh. -/
def writeSegment (position' raw : Byte) : Script :=
  inOrder
    [reading fun s =>
      let p := position position'
      let v := compose p raw s.colon
      if v ≠ s.buf.get p then dataWrite p v else nothing,
    controlRefresh]

/-- R177: SETCOLON, without its result: position 1 is rewritten past the cache check. -/
def overlay (f : Bool) : Script :=
  inOrder
    [perform [.setColon f],
    reading fun s => dataWrite colonPos (overlayColon (s.buf.get colonPos) f),
    controlRefresh]

/-- R182: CLEAR, without its result: `SETCOLON(false)`, then a blank to positions 0 to 3 through the cache. -/
def clearDisplay : Script :=
  inOrder
    [overlay false, writeSegment 0#8 0x00#8, writeSegment 1#8 0x00#8, writeSegment 2#8 0x00#8, writeSegment 3#8 0x00#8]

/-- R174. -/
def wrSegScript (pos raw : Byte) : Script := hostOp (writeSegment pos raw)

/-- R177. -/
def setColonScript (f : Bool) : Script := hostOp (overlay f)

/-- R179: `brightness <- value & 0x07; call CTRLREF`. -/
def setBrtScript (v : Byte) : Script :=
  hostOp (inOrder [perform [.setBrightness (maskBrightness v)], controlRefresh])

/-- R180: `enabled <- f; call CTRLREF`. -/
def setEnScript (f : Bool) : Script := hostOp (inOrder [perform [.setEnabled f], controlRefresh])

/-- R182. -/
def clearScript : Script := hostOp clearDisplay

/-- R183: the pin check, the binding, the two SETDIR each with its `Dly`, the defaults, then CLEAR. INIT is exempt
from the check of `inited` (R236). -/
def initScript (c d : Byte) : Script :=
  inOrder
    [perform [.checkPins c d, .bindPins c d, .setDir .clk .output, .dly, .setDir .dio .output, .dly, .loadDefaults],
    clearDisplay, perform [.result 0x00#8]]

/-- R186: `call WRSEG(position, DIG2SEG(digit))`. -/
def dispDigitScript (pos digit : Byte) : Script :=
  hostOp (reading fun s => writeSegment pos (digitSegments s.cfg.digitLut digit))

/-- WRSEG (R174). -/
def execWrSeg (pos raw : Byte) (s : State) : Host.Outcome State Fault Refusal :=
  .next (operate (wrSegScript pos raw) s)

/-- SETCOLON (R177). -/
def execSetColon (f : Bool) (s : State) : Host.Outcome State Fault Refusal := .next (operate (setColonScript f) s)

/-- SETBRT (R179). -/
def execSetBrt (v : Byte) (s : State) : Host.Outcome State Fault Refusal := .next (operate (setBrtScript v) s)

/-- SETEN (R180). -/
def execSetEn (f : Bool) (s : State) : Host.Outcome State Fault Refusal := .next (operate (setEnScript f) s)

/-- CLEAR (R182). -/
def execClear (s : State) : Host.Outcome State Fault Refusal := .next (operate clearScript s)

/-- INIT (R183). -/
def execInit (c d : Byte) (s : State) : Host.Outcome State Fault Refusal := .next (operate (initScript c d) s)

/-- DISPDIGIT (R186). -/
def execDispDigit (pos digit : Byte) (s : State) : Host.Outcome State Fault Refusal :=
  .next (operate (dispDigitScript pos digit) s)

end Sys2Proof.Machine
end

