-- ==== Sys2Proof/Machine/Encoder.lean ====
section
/-! DEFINITION. The encoder operations (43_encoder.md R200 to R206): combinational, they read the constant tables and
their operand, deliver a result byte and write no state. They have no micro-step. -/

namespace Sys2Proof.Machine

/-- R201. -/
def dig2SegScript (d : Byte) : Script :=
  reading fun s => perform [.result (digitSegments s.cfg.digitLut d)]

/-- R204. -/
def chr2SegScript (c : Byte) : Script := reading fun s => perform [.result (charSegments s.cfg c)]

/-- DIG2SEG (R201). -/
def execDig2Seg (d : Byte) (s : State) : Host.Outcome State Fault Refusal := .next (operate (dig2SegScript d) s)

/-- CHR2SEG (R204). -/
def execChr2Seg (c : Byte) (s : State) : Host.Outcome State Fault Refusal := .next (operate (chr2SegScript c) s)

end Sys2Proof.Machine
end

