-- ==== Sys2Proof/Machine/Line.lean ====
section
/-! DEFINITION. The line transport as host operations: DRVH, DRVL, SETDIR, READ (40_line_transport.md R122 to R125).
Each is its micro-step followed by one `Dly` (R121); the first three also record `RawLineOp` (R127, R236). -/

namespace Sys2Proof.Machine

/-- R122. -/
def drvhScript (l : Line) : Script := perform [.checkInit, .violateRaw, .drv l true, .dly, .result 0x00#8]

/-- R123. -/
def drvlScript (l : Line) : Script := perform [.checkInit, .violateRaw, .drv l false, .dly, .result 0x00#8]

/-- R124. -/
def setDirScript (l : Line) (d : Dir) : Script := perform [.checkInit, .violateRaw, .setDir l d, .dly, .result 0x00#8]

/-- R125: the result is `zext_8` of the level the oracle answered; `ack_q` is not written. -/
def readScript (l : Line) : Script := perform [.checkInit, .read l, .dly, .resultSample]

/-- DRVH (R122). -/
def execDrvh (l : Line) (s : State) : Host.Outcome State Fault Refusal := .next (operate (drvhScript l) s)

/-- DRVL (R123). -/
def execDrvl (l : Line) (s : State) : Host.Outcome State Fault Refusal := .next (operate (drvlScript l) s)

/-- SETDIR (R124). -/
def execSetDir (l : Line) (d : Dir) (s : State) : Host.Outcome State Fault Refusal :=
  .next (operate (setDirScript l d) s)

/-- READ (R125). -/
def execRead (l : Line) (s : State) : Host.Outcome State Fault Refusal := .next (operate (readScript l) s)

end Sys2Proof.Machine
end

