-- ==== Sys2Proof/Machine/Wire.lean ====
section
/-! DEFINITION. The wire bytes (30_encoding.md R99 to R104). They are no host operations: they are what the byte unit
sends to the chip. Their meaning is that sending, by the rule of WRBYTE (41_frame_protocol.md R144), the one place
any byte goes out on the wire; what the chip makes of the byte is outside the spec (00_scope.md R4 (c)). Log 11. -/

namespace Sys2Proof.Machine

/-- R101: the data command byte is sent. -/
def wireDataCmdScript (f : Bool) : Script := wrByteScript (dataCommandByte f)

/-- R102: the address command byte is sent. -/
def wireAddrCmdScript (p : Pos) : Script := wrByteScript (addressCommandByte p)

/-- R103: the display control command byte is sent. -/
def wireCtrlCmdScript (e : Bool) (b : BitVec 3) : Script := wrByteScript (controlByte e b)

/-- R104: the segment byte is sent. -/
def wireSegByteScript (c : Bool) (g : BitVec 7) : Script := wrByteScript (segmentByte c g)

/-- WIRE.DATACMD (R101). -/
def execWireDataCmd (f : Bool) (s : State) : Host.Outcome State Fault Refusal :=
  .next (operate (wireDataCmdScript f) s)

/-- WIRE.ADDRCMD (R102). -/
def execWireAddrCmd (p : Pos) (s : State) : Host.Outcome State Fault Refusal :=
  .next (operate (wireAddrCmdScript p) s)

/-- WIRE.CTRLCMD (R103). -/
def execWireCtrlCmd (e : Bool) (b : BitVec 3) (s : State) : Host.Outcome State Fault Refusal :=
  .next (operate (wireCtrlCmdScript e b) s)

/-- WIRE.SEGBYTE (R104). -/
def execWireSegByte (c : Bool) (g : BitVec 7) (s : State) : Host.Outcome State Fault Refusal :=
  .next (operate (wireSegByteScript c g) s)

end Sys2Proof.Machine
end

