-- ==== Sys2Proof/Machine/Dispatch.lean ====
section
/-! DEFINITION. The meaning of every row of the opcode table, one arm per constructor. -/

namespace Sys2Proof.Machine

def exec (i : Instr) (s : State) : Host.Outcome State Fault Refusal :=
  match i with
  | .drvh l => Sys2Proof.Machine.execDrvh l s
  | .drvl l => Sys2Proof.Machine.execDrvl l s
  | .setDir l d => Sys2Proof.Machine.execSetDir l d s
  | .read l => Sys2Proof.Machine.execRead l s
  | .start => Sys2Proof.Machine.execStart s
  | .wrByte value => Sys2Proof.Machine.execWrByte value s
  | .stop => Sys2Proof.Machine.execStop s
  | .command value => Sys2Proof.Machine.execCommand value s
  | .wrSeg pos raw => Sys2Proof.Machine.execWrSeg pos raw s
  | .setColon flag => Sys2Proof.Machine.execSetColon flag s
  | .setBrt value => Sys2Proof.Machine.execSetBrt value s
  | .setEn flag => Sys2Proof.Machine.execSetEn flag s
  | .clear => Sys2Proof.Machine.execClear s
  | .init c d => Sys2Proof.Machine.execInit c d s
  | .dispDigit pos digit => Sys2Proof.Machine.execDispDigit pos digit s
  | .dig2Seg d => Sys2Proof.Machine.execDig2Seg d s
  | .chr2Seg c => Sys2Proof.Machine.execChr2Seg c s
  | .wireDataCmd f => Sys2Proof.Machine.execWireDataCmd f s
  | .wireAddrCmd p => Sys2Proof.Machine.execWireAddrCmd p s
  | .wireCtrlCmd e b => Sys2Proof.Machine.execWireCtrlCmd e b s
  | .wireSegByte c g => Sys2Proof.Machine.execWireSegByte c g s

end Sys2Proof.Machine
end

