-- ==== Sys2Proof/Machine/Sequencer.lean ====
section
/-! DEFINITION. The micro-sequencer (10_state.md R24, 00_scope.md R8): the same operations one micro-step at a time.
`begin` accepts an operation and loads its list; `microStep` performs the next micro-step. -/

namespace Sys2Proof.Machine

/-- The script of each operation. -/
def scriptOf (i : Instr) : Script :=
  match i with
  | .drvh l => drvhScript l
  | .drvl l => drvlScript l
  | .setDir l d => setDirScript l d
  | .read l => readScript l
  | .start => startScript
  | .wrByte v => wrByteScript v
  | .stop => stopScript
  | .command v => commandScript v
  | .wrSeg pos raw => wrSegScript pos raw
  | .setColon f => setColonScript f
  | .setBrt v => setBrtScript v
  | .setEn f => setEnScript f
  | .clear => clearScript
  | .init c d => initScript c d
  | .dispDigit pos digit => dispDigitScript pos digit
  | .dig2Seg d => dig2SegScript d
  | .chr2Seg c => chr2SegScript c
  | .wireDataCmd f => wireDataCmdScript f
  | .wireAddrCmd p => wireAddrCmdScript p
  | .wireCtrlCmd e b => wireCtrlCmdScript e b
  | .wireSegByte c g => wireSegByteScript c g

/-- When a micro-operation is performed: as a micro-step of its own, together with the micro-step that follows it, or
together with the micro-step before it (log 15). -/
inductive Uop.Timing where
  | micro
  | withNext
  | withLast
  deriving DecidableEq, Repr

/-- R24: the line events and delays are the micro-steps. A check or a transfer that opens a rule goes with the
micro-step after it, one that closes a rule with the micro-step before it. -/
def timing (u : Uop) : Uop.Timing :=
  match u with
  | .drv _ _ => .micro
  | .drvBit => .micro
  | .setDir _ _ => .micro
  | .read _ => .micro
  | .dly => .micro
  | .checkInit => .withNext
  | .checkNoFrame => .withNext
  | .checkFrame _ => .withNext
  | .checkPins _ _ => .withNext
  | .violateRaw => .withNext
  | .enterByte _ => .withNext
  | .shift => .withLast
  | .latchAck => .withLast
  | .setFState _ => .withLast
  | .emitStart => .withLast
  | .emitByte _ => .withLast
  | .emitStop => .withLast
  | .writeBuf _ _ => .withLast
  | .setColon _ => .withNext
  | .setBrightness _ => .withNext
  | .setEnabled _ => .withNext
  | .bindPins _ _ => .withNext
  | .loadDefaults => .withLast
  | .result _ => .withLast
  | .resultSample => .withLast

/-- Perform what goes with the micro-step just made; what is left then begins with the next micro-step's part. -/
def settle (us : List Uop) (s : State) : State :=
  match us with
  | [] => complete { s with prog := [] }
  | u :: rest => if timing u = .withLast then settle rest (run u s) else { s with prog := u :: rest }

/-- Perform the next micro-step of the list, with what goes with it. -/
def performNext (us : List Uop) (s : State) : State :=
  match us with
  | [] => complete { s with prog := [] }
  | u :: rest => if timing u = .micro then settle rest (run u s) else performNext rest (run u s)

/-- R92: accept an operation: `busy <- 1`, `useq` at 0, its flattened list loaded (R24). An operation without a
micro-step completes at once. -/
def begin (i : Instr) (s : State) : State := settle (scriptOf i (accept s)).1 (accept s)

/-- R24: one micro-step of the running operation. -/
def microStep (s : State) : State := performNext s.prog s

/-- `k` micro-steps. -/
def microSteps (k : Nat) (s : State) : State :=
  match k with
  | 0 => s
  | n + 1 => microSteps n (microStep s)

/-- The number of micro-steps of a list. -/
def microCount (us : List Uop) : Nat := us.countP fun u => timing u = .micro

end Sys2Proof.Machine
end

