-- ==== Sys2Proof/Machine/Fetch.lean ====
section
/-! DEFINITION. How an operation reaches the engine (30_encoding.md R92): the host presents its next word, and the
engine takes it when `busy = 0`. The engine has no program memory and no fetch (10_state.md R24, 20_memory.md R72). -/

namespace Sys2Proof.Machine

/-- R24: the engine goes on with the running operation by one micro-step. -/
def proceed (s : State) : Host.Outcome State Fault Refusal := .next (microStep s)

/-- R261: no word is presented; the engine does nothing until the host issues an operation. -/
def await (s : State) : Host.Outcome State Fault Refusal := .next s

/-- R90, R92, R97: the presented word is decoded; an operation is taken from the host and run, a reserved opcode is
refused. -/
def acceptWord (c : Code) (rest : List Code) (s : State) : Host.Outcome State Fault Refusal :=
  match decode c with
  | .ok i => exec i { s with pending := rest }
  | .reserved op => .refused (.reservedOpcode op)
  | .noCommand v => .refused (.noWireCommand v)

/-- R92: a word presented while `busy = 1` is not accepted and has no effect. -/
def nextAction (s : State) : Host.Outcome State Fault Refusal :=
  if s.busy then proceed s
  else
    match s.pending with
    | [] => await s
    | c :: rest => acceptWord c rest s

/-- The state in which this instruction is the word presented next and no operation is running (log 13). -/
def placeWord (s : State) (nbits w : Nat) : State :=
  { s with
    busy := false, useq := none, prog := [],
    pending := (codeOfTableWord nbits w).getD (.cmd (BitVec.ofNat 24 w)) :: s.pending }

end Sys2Proof.Machine
end

