-- ==== Sys2Proof/Machine/Step.lean ====
section
/-! DEFINITION. One step: an operation presented by the host and run to completion (00_scope.md R8), or, while an
operation is running, one of its micro-steps (10_state.md R24). -/

namespace Sys2Proof.Machine

/-- One step of the engine. -/
def step (s : State) : Host.Outcome State Fault Refusal := nextAction s

/-- The state in which the next step runs exactly this instruction. -/
def State.withFetchWord (s : State) (nbits w : Nat) : State := placeWord s nbits w

end Sys2Proof.Machine
end

