-- ==== Sys2Proof/Machine/Macros.lean ====
section
/-! DEFINITION. The host-side names that expand to operations (30_encoding.md R107) and the frame sequence of
scroll-text (43_encoder.md R209 to R211). They have no opcode; the host performs the expansion. -/

namespace Sys2Proof.Machine

/-- What the host does in an expansion: issue an operation, or wait `T_SCROLL` (R211). -/
inductive HostStep where
  | issue (i : Instr)
  | waitScroll
  deriving DecidableEq, Repr

/-- R107: `DISPSEG pos, raw`. -/
def hostDispSeg (pos raw : Byte) : List HostStep := [.issue (.wrSeg pos raw)]

/-- R107: `DISPCOLON f`. -/
def hostDispColon (f : Bool) : List HostStep := [.issue (.setColon f)]

/-- R107: `ENABLE f`. -/
def hostEnable (f : Bool) : List HostStep := [.issue (.setEn f)]

/-- R107: `ON`. -/
def hostOn : List HostStep := [.issue (.setEn true)]

/-- R107: `OFF`. -/
def hostOff : List HostStep := [.issue (.setEn false)]

/-- R107: `BLANK pos`, with the canonical blank digit 0xFF. -/
def hostBlank (pos : Byte) : List HostStep := [.issue (.dispDigit pos 0xFF#8)]

/-- R209: `F[k][j] = s[k + j - 3]` when `0 <= k + j - 3 < L`, 0x00 otherwise. -/
def frameCell (segs : List Byte) (k j : Nat) : Byte :=
  if 3 ≤ k + j then (segs[k + j - 3]?).getD 0x00#8 else 0x00#8

/-- R209: the frame `F[k]`. -/
def frameAt (segs : List Byte) (k : Nat) : Cells :=
  ⟨frameCell segs k 0, frameCell segs k 1, frameCell segs k 2, frameCell segs k 3⟩

/-- R209: `frames(text)`, `L + 4` frames. -/
def scrollFrames (cfg : Config) (text : List Byte) : List Cells :=
  (List.range (text.length + 4)).map (frameAt (text.map (charSegments cfg)))

/-- R211: one frame: the positions in ascending order, then the wait. -/
def scrollFrame (f : Cells) : List HostStep :=
  [.issue (.wrSeg 0#8 f.p0), .issue (.wrSeg 1#8 f.p1), .issue (.wrSeg 2#8 f.p2), .issue (.wrSeg 3#8 f.p3), .waitScroll]

/-- R211: `SCROLL text`. -/
def hostScroll (cfg : Config) (text : List Byte) : List HostStep := (scrollFrames cfg text).flatMap scrollFrame

/-- The operations of an expansion, in order; a wait is the host's alone and changes nothing in the engine (R9). -/
def issued (hs : List HostStep) : List Instr :=
  hs.filterMap fun h =>
    match h with
    | .issue i => some i
    | .waitScroll => none

end Sys2Proof.Machine
end

