-- ==== Sys2Proof/Machine/WireDecoder.lean ====
section
/-! DEFINITION. The decoder of the functional line trace (20_memory.md R75): what a receiver on the two wires sees. It
is a check of the engine's own line events, not a model of the chip; that a receiver samples the data line on the
rising clock edge is the spec's general knowledge (G4; log 20). -/

namespace Sys2Proof.Machine

/-- R41: the line trace without its delays. -/
def functional (es : List Event) : List Event := es.filter fun e => e ≠ .dly

/-- R75: what the decoder yields, `S`, `B(sh)`, `P`. -/
inductive Mark where
  | start
  | byte (v : Byte)
  | stop
  deriving DecidableEq, Repr

/-- R75: the line state, the bit count `n` and the byte `sh`. -/
structure Receiver where
  lvl : PerLine Bit
  dir : PerLine Dir
  n : Nat
  sh : Byte
  deriving DecidableEq, Repr

/-- R75: the receiver at the start of a sequence of operations, given the line state before the first event. -/
def receiverOf (s : State) : Receiver where
  lvl := s.lvl
  dir := s.dir
  n := 0
  sh := 0x00#8

/-- `sh[n] <- b`. -/
def setBit (sh : Byte) (n : Nat) (b : Bit) : Byte :=
  (sh &&& ~~~(1#8 <<< n)) ||| (if b then 1#8 <<< n else 0#8)

/-- R75: a moved data line: a start mark when it falls, a stop mark when it rises, while the clock is driven high. -/
def dataMoved (r : Receiver) (b : Bit) : Receiver × List Mark :=
  if r.dir.clk = .output ∧ r.lvl.clk = true then
    ({ r with lvl := r.lvl.set .dio b, n := 0, sh := 0x00#8 }, [if b then .stop else .start])
  else ({ r with lvl := r.lvl.set .dio b }, [])

/-- R75: a moved clock line: a rising edge takes a bit, the ninth one yields the byte. -/
def clockMoved (r : Receiver) (b : Bit) : Receiver × List Mark :=
  let moved := { r with lvl := r.lvl.set .clk b }
  if b then
    if r.n < 8 then
      ({ moved with sh := if r.dir.dio = .output then setBit r.sh r.n r.lvl.dio else r.sh, n := r.n + 1 }, [])
    else ({ moved with n := 0, sh := 0x00#8 }, [.byte r.sh])
  else (moved, [])

/-- R75: one event. -/
def observe (r : Receiver) (e : Event) : Receiver × List Mark :=
  match e with
  | .dir l d => ({ r with dir := r.dir.set l d }, [])
  | .drv l b =>
    if r.dir.get l = .input ∨ r.lvl.get l = b then ({ r with lvl := r.lvl.set l b }, [])
    else
      match l with
      | .dio => dataMoved r b
      | .clk => clockMoved r b
  | .rd _ _ => (r, [])
  | .dly => (r, [])

/-- R75: the events in order: where the receiver ends and what it has seen. -/
def observeAll (r : Receiver) (es : List Event) : Receiver × List Mark :=
  match es with
  | [] => (r, [])
  | e :: rest =>
    let (r', seen) := observe r e
    let (r'', later) := observeAll r' rest
    (r'', seen ++ later)

/-- R75: `decode` of the functional line trace. -/
def wireDecode (r : Receiver) (es : List Event) : List Mark := (observeAll r (functional es)).2

/-- R76: a wire trace with the ACK samples erased. -/
def withoutSamples (w : List Sym) : List Mark :=
  w.map fun x =>
    match x with
    | .start => .start
    | .byte v _ => .byte v
    | .stop => .stop

end Sys2Proof.Machine
end

