-- ==== Sys2Proof/Safety.lean ====
section
/-! DEFINITION. What counts as a safe run (60_exceptions.md R237, R240; 70_reset_and_hazards.md R270), and the terms the
statements use: the waveforms of the frame operations written out from 41_frame_protocol.md, frames, the mirror of
what was sent to the chip, and traces with the chip's answers erased. -/

namespace Sys2Proof.Machine

/-! Runs -/

/-- Operations one after another, by `exec`; it stops at the first fault or refusal. -/
def execAll (is : List Instr) (s : State) : Host.Outcome State Fault Refusal :=
  match is with
  | [] => .next s
  | i :: rest =>
    match exec i s with
    | .next t => execAll rest t
    | .fault r => .fault r
    | .refused r => .refused r

/-- R240: the contract levels, sets of opcodes; a wire byte is no host operation and has none. -/
inductive ContractLevel where
  | publicOp
  | bracketed
  | raw
  | notHost
  deriving DecidableEq, Repr

/-- R240. -/
def Instr.level (i : Instr) : ContractLevel :=
  match i with
  | .drvh _ => .raw
  | .drvl _ => .raw
  | .setDir _ _ => .raw
  | .read _ => .raw
  | .start => .raw
  | .wrByte _ => .raw
  | .stop => .raw
  | .command _ => .bracketed
  | .wrSeg _ _ => .publicOp
  | .setColon _ => .publicOp
  | .setBrt _ => .publicOp
  | .setEn _ => .publicOp
  | .clear => .publicOp
  | .init _ _ => .publicOp
  | .dispDigit _ _ => .publicOp
  | .dig2Seg _ => .publicOp
  | .chr2Seg _ => .publicOp
  | .wireDataCmd _ => .notHost
  | .wireAddrCmd _ => .notHost
  | .wireCtrlCmd _ _ => .notHost
  | .wireSegByte _ _ => .notHost

/-- R240: *public*. -/
abbrev Instr.isPublic (i : Instr) : Prop := Instr.level i = .publicOp

/-- R240: *frame-safe*: the public ones and COMMAND. -/
abbrev Instr.isFrameSafe (i : Instr) : Prop := Instr.level i = .publicOp ∨ Instr.level i = .bracketed

/-- R185: an INIT names two different pins; nothing is asked of another operation. -/
def Instr.pinsDiffer (i : Instr) : Prop := ∀ c d, i = .init c d → c ≠ d

/-- R240: what a host that keeps the contract issues. -/
abbrev Instr.keepsContract (i : Instr) : Prop := Instr.isFrameSafe i ∧ Instr.pinsDiffer i

/-- R270: no operation is running and no frame is open. -/
abbrev State.isComplete (s : State) : Prop := s.busy = false ∧ s.fstate = .idle

/-- R237, R270: claims about the display are made of such ends of runs only. -/
abbrev State.isSafeEnd (s : State) : Prop := s.isComplete ∧ s.viol = false

/-- R47 (a): what holds between two operations. -/
abbrev State.isQuiet (s : State) : Prop :=
  s.busy = false ∧ s.useq = none ∧ s.prog = [] ∧ s.shreg = 0x00#8 ∧ s.bitcnt = 0#4 ∧ s.fstate ≠ .transmitting

/-- The ghost flag says whether a reason is recorded, and no reason is recorded twice (R234, R236). -/
abbrev State.ghostAgrees (s : State) : Prop := (s.viol = true ↔ s.reasons ≠ []) ∧ s.reasons.Nodup

/-- R236: equal but for the ghost record of violations, which changes no hardware state and no line event. -/
abbrev State.sameButGhost (t u : State) : Prop := t = { u with viol := t.viol, reasons := t.reasons }

/-- R47 (c): the lines of an engine that has no frame open: both driven high. -/
abbrev State.isParked (s : State) : Prop :=
  s.fstate = .idle ∧ s.lvl = ⟨true, true⟩ ∧ s.dir = ⟨.output, .output⟩

/-- R240: what a contract-keeping host finds between any two of its operations. -/
abbrev State.isServing (s : State) : Prop := s.inited = true ∧ s.fstate = .idle ∧ s.viol = false

/-- R90, R91: every command word with this opcode asks for this operation, whatever its unused operand bits. -/
def opcodeSelects (op : Byte) (f : Byte → Byte → Instr) : Prop :=
  ∀ w : CmdWord, w.extractLsb' 16 8 = op → decode (.cmd w) = .ok (f (w.extractLsb' 8 8) (w.extractLsb' 0 8))

/-- R97: the reserved opcodes, 0x00..0x0F, 0x14..0x1F, 0x24..0x2F, 0x37..0x3F, 0x42..0xFF. -/
abbrev isReserved (op : Byte) : Prop :=
  op ≤ 0x0F#8 ∨ (0x14#8 ≤ op ∧ op ≤ 0x1F#8) ∨ (0x24#8 ≤ op ∧ op ≤ 0x2F#8) ∨ (0x37#8 ≤ op ∧ op ≤ 0x3F#8) ∨ 0x42#8 ≤ op

/-! Waveforms, as 41_frame_protocol.md writes them -/

/-- R142, R143: the line events of START. -/
def startWave (dioIsFirst : Bool) : List Event :=
  (if dioIsFirst then [.drv .dio true, .drv .clk true] else [.drv .clk true, .drv .dio true])
    ++ [.dly, .drv .dio false]

/-- R145: the five micro-steps of one data bit. -/
def bitWave (b : Bit) : List Event := [.drv .clk false, .drv .dio b, .dly, .drv .clk true, .dly]

/-- R146: the nine micro-steps of the ACK slot. -/
def ackWave (a : Bit) : List Event :=
  [.drv .clk false, .dir .dio .input, .dly, .rd .dio a, .dly, .drv .clk true, .dly, .drv .clk false,
    .dir .dio .output]

/-- R63, R145: the eight bits of a byte, least significant first. -/
def bitsWave (v : Byte) : List Event :=
  bitWave v[0] ++ bitWave v[1] ++ bitWave v[2] ++ bitWave v[3] ++ bitWave v[4] ++ bitWave v[5] ++ bitWave v[6]
    ++ bitWave v[7]

/-- R63, R145, R146: a byte, least significant bit first, and its ACK slot. -/
def byteWave (v : Byte) (a : Bit) : List Event := bitsWave v ++ ackWave a

/-- R149: the line events of STOP. -/
def stopWave : List Event :=
  [.drv .clk false, .dly, .drv .dio false, .dly, .drv .clk true, .dly, .drv .dio true]

/-- R150: the line events of COMMAND. -/
def commandWave (dioIsFirst : Bool) (v : Byte) (a : Bit) : List Event :=
  startWave dioIsFirst ++ byteWave v a ++ stopWave

/-- R142: whether the `k`-th START from here raises the data line first. -/
def State.dioFirstAt (s : State) (k : Nat) : Bool := dioFirst { s with starts := s.starts + k }

/-! Wire traces -/

/-- R150: the frame of one byte. -/
def oneByteFrame (v : Byte) (a : Bit) : List Sym := [.start, .byte v a, .stop]

/-- R172: the two frames of a data-write transaction. -/
def dataWriteFrames (p : Pos) (v : Byte) (a1 a2 a3 : Bit) : List Sym :=
  oneByteFrame 0x44#8 a1 ++ [.start, .byte (0xC0#8 ||| p.setWidth 8) a2, .byte v a3, .stop]

/-- R47 (c): a concatenation of frames of one or two bytes. -/
def isFrames (w : List Sym) : Bool :=
  match w with
  | [] => true
  | .start :: .byte _ _ :: .stop :: rest => isFrames rest
  | .start :: .byte _ _ :: .byte _ _ :: .stop :: rest => isFrames rest
  | _ => false

/-- R99, R101, R102, R103, R105: a concatenation of the frames the display layer sends: the data command 0x44 alone, a
control byte 0x80..0x8F alone, or an address 0xC0..0xC3 with one segment byte. -/
def isDisplayTraffic (w : List Sym) : Bool :=
  match w with
  | [] => true
  | .start :: .byte v _ :: .stop :: rest => (v == 0x44#8 || v &&& 0xF0#8 == 0x80#8) && isDisplayTraffic rest
  | .start :: .byte v _ :: .byte _ _ :: .stop :: rest => v &&& 0xFC#8 == 0xC0#8 && isDisplayTraffic rest
  | _ => false

/-- R42: the number of bytes framed out. -/
def byteCount (w : List Sym) : Nat := w.countP fun x => match x with | .byte _ _ => true | _ => false

/-- The number of frames opened. -/
def frameCount (w : List Sym) : Nat := w.countP fun x => x = .start

/-- R9, R280: the number of delay markers. -/
def delayCount (es : List Event) : Nat := es.countP fun e => e = .dly

/-- R187: the number of line events, the delays not counted. -/
def lineEventCount (es : List Event) : Nat := (functional es).length

/-- R280: the lower bound the delays put on a trace's duration, in the time unit of `T_SETTLE`. -/
def minDuration (c : Config) (es : List Event) : Nat := delayCount es * c.tSettle

/-! Traffic of the compound operations -/

/-- What a compound operation sends: one byte in a frame of its own (COMMAND, R150), or a data-write transaction
(R172). -/
inductive Traffic where
  | single (v : Byte)
  | dataWrite (p : Pos) (v : Byte)
  deriving DecidableEq, Repr

/-- R187: the bytes of one item, each with its ACK sample. -/
def Traffic.bytes (x : Traffic) : Nat :=
  match x with
  | .single _ => 1
  | .dataWrite _ _ => 3

/-- R187: the frames of one item. -/
def Traffic.frames (x : Traffic) : Nat :=
  match x with
  | .single _ => 1
  | .dataWrite _ _ => 2

/-- The bytes of some traffic. -/
def trafficBytes (tr : List Traffic) : Nat := (tr.map Traffic.bytes).sum

/-- The frames of some traffic. -/
def trafficFrames (tr : List Traffic) : Nat := (tr.map Traffic.frames).sum

/-- R172: the line events of a data-write transaction. -/
def dataWriteWave (d1 d2 : Bool) (p : Pos) (v : Byte) (a1 a2 a3 : Bit) : List Event :=
  commandWave d1 0x44#8 a1 ++ startWave d2 ++ byteWave (0xC0#8 ||| p.setWidth 8) a2 ++ byteWave v a3 ++ stopWave

/-- The wire symbols of some traffic, when its first byte is answered by the `k`-th answer from here. -/
def trafficSyms (s : State) (k : Nat) (tr : List Traffic) : List Sym :=
  match tr with
  | [] => []
  | .single v :: rest => oneByteFrame v (s.answer k) ++ trafficSyms s (k + 1) rest
  | .dataWrite p v :: rest =>
    dataWriteFrames p v (s.answer k) (s.answer (k + 1)) (s.answer (k + 2)) ++ trafficSyms s (k + 3) rest

/-- The line events of some traffic, when its first byte is answered by the `k`-th answer and its first frame is
opened by the `j`-th START from here. -/
def trafficEvents (s : State) (k j : Nat) (tr : List Traffic) : List Event :=
  match tr with
  | [] => []
  | .single v :: rest => commandWave (s.dioFirstAt j) v (s.answer k) ++ trafficEvents s (k + 1) (j + 1) rest
  | .dataWrite p v :: rest =>
    dataWriteWave (s.dioFirstAt j) (s.dioFirstAt (j + 1)) p v (s.answer k) (s.answer (k + 1)) (s.answer (k + 2))
      ++ trafficEvents s (k + 3) (j + 2) rest

/-- What an operation that sends this traffic (not empty) and writes nothing else leaves, the ghost record of
violations apart: both lines high and no frame open (R149), the bit-framer cleared (R147), the last byte's ACK sample
in `ack_q` (R30), the traces extended, the result 0x00 (R93), the engine free (R92). Every other field is as before. -/
def State.afterTraffic (s : State) (tr : List Traffic) : State :=
  { s with
    lvl := ⟨true, true⟩, dir := ⟨s.dir.clk, .output⟩, fstate := .idle
    shreg := 0x00#8, bitcnt := 0#4, busy := false, useq := none
    ackQ := s.answer (trafficBytes tr - 1), sample := s.answer (trafficBytes tr - 1)
    reads := s.reads + trafficBytes tr, starts := s.starts + trafficFrames tr
    ltrace := s.ltrace ++ trafficEvents s 0 0 tr, wtrace := s.wtrace ++ trafficSyms s 0 tr, res := 0x00#8 }

/-- R174: the traffic of WRSEG: the data-write transaction unless the cache already holds the composed byte, and in
all cases the control byte. -/
def State.segmentTraffic (s : State) (p : Pos) (v : Byte) : List Traffic :=
  (if v ≠ s.buf.get p then [.dataWrite p v] else []) ++ [.single s.ctrl]

/-- R182: the part of CLEAR for one position whose cached byte is `old`. -/
def blankTraffic (p : Pos) (old ctrl : Byte) : List Traffic :=
  (if old ≠ 0x00#8 then [.dataWrite p 0x00#8] else []) ++ [.single ctrl]

/-- R182: the traffic of CLEAR from a buffer and a control byte; position 1 holds its base value by the time it is
blanked. -/
def clearTraffic (b : Cells) (ctrl : Byte) : List Traffic :=
  [.dataWrite 1#2 (b.p1 &&& 0x7F#8), .single ctrl] ++ blankTraffic 0#2 b.p0 ctrl
    ++ blankTraffic 1#2 (b.p1 &&& 0x7F#8) ctrl ++ blankTraffic 2#2 b.p2 ctrl ++ blankTraffic 3#2 b.p3 ctrl

/-- R182: `k`, the number of positions with a non-zero cached byte, position 1 counted by its base value. -/
def clearCount (b : Cells) : Nat :=
  [b.p0, b.p1 &&& 0x7F#8, b.p2, b.p3].countP fun v => v ≠ 0x00#8

/-! The mirror of what was sent (20_memory.md R74) -/

/-- What the frames seen so far have sent to each position: the bytes of the frame now open, if one is, and whether
the last whole frame was the data command alone. -/
structure Mirror where
  cells : Cells
  armed : Bool
  frame : Option (List Byte)
  deriving DecidableEq, Repr

/-- At a stop mark: a frame of an address 0xC0..0xC3 and one byte that follows the data command's frame is a
data-write transaction (R172). -/
def Mirror.close (m : Mirror) (bytes : List Byte) : Mirror where
  cells :=
    match bytes with
    | [a, v] => if m.armed = true ∧ a &&& 0xFC#8 = 0xC0#8 then m.cells.set (a.extractLsb' 0 2) v else m.cells
    | _ => m.cells
  armed := bytes == [0x44#8]
  frame := none

/-- One symbol of the wire trace. -/
def Mirror.see (m : Mirror) (x : Sym) : Mirror :=
  match x with
  | .start => { m with frame := some [] }
  | .byte v _ => { m with frame := m.frame.map (· ++ [v]) }
  | .stop => m.close (m.frame.getD [])

/-- What a wire trace sent, over what the positions held before. -/
def sentOver (c : Cells) (w : List Sym) : Cells :=
  (w.foldl Mirror.see { cells := c, armed := false, frame := none }).cells

/-! Traces with the chip's answers erased (00_scope.md R18) -/

/-- A line event without the level the oracle answered. -/
def Event.hideAnswer (e : Event) : Event :=
  match e with
  | .rd l _ => .rd l false
  | .drv l b => .drv l b
  | .dir l d => .dir l d
  | .dly => .dly

/-- A wire symbol without its ACK sample. -/
def Sym.hideAck (x : Sym) : Sym :=
  match x with
  | .byte v _ => .byte v false
  | .start => .start
  | .stop => .stop

/-- Two states that differ at most in the oracle and in what its answers have been stored in: the traces' samples,
`ack_q`, the last sample and the result byte. -/
def State.sameButAnswers (s t : State) : Prop :=
  { s with
    oracle := t.oracle, ackQ := t.ackQ, sample := t.sample, res := t.res
    ltrace := s.ltrace.map Event.hideAnswer, wtrace := s.wtrace.map Sym.hideAck }
  = { t with ltrace := t.ltrace.map Event.hideAnswer, wtrace := t.wtrace.map Sym.hideAck }

/-! The law of the wire decoder (20_memory.md R76) -/

/-- R76: a START that begins here is marked: (a) clock high, data low; (b) both low and the clock raised first. -/
def State.startIsMarked (s : State) : Bool :=
  !s.lvl.dio && (s.lvl.clk || !dioFirst s)

/-- The first thing this operation does on the wire is a START. -/
def Instr.beginsWithStart (i : Instr) : Bool :=
  match i with
  | .drvh _ => false
  | .drvl _ => false
  | .setDir _ _ => false
  | .read _ => false
  | .start => true
  | .wrByte _ => false
  | .stop => false
  | .command _ => true
  | .wrSeg _ _ => true
  | .setColon _ => true
  | .setBrt _ => true
  | .setEn _ => true
  | .clear => true
  | .init _ _ => true
  | .dispDigit _ _ => true
  | .dig2Seg _ => false
  | .chr2Seg _ => false
  | .wireDataCmd _ => false
  | .wireAddrCmd _ => false
  | .wireCtrlCmd _ _ => false
  | .wireSegByte _ _ => false

/-- R76: the premise that the sequence holds no host-issued DRVH, DRVL or SETDIR. -/
def Instr.leavesLinesToEngine (i : Instr) : Bool :=
  match i with
  | .drvh _ => false
  | .drvl _ => false
  | .setDir _ _ => false
  | _ => true

/-- R236: the table of the reasons an operation records when it is issued in this state. A wire byte is checked like
WRBYTE (log 11). -/
def recordsReason (i : Instr) (s : State) (r : Reason) : Prop :=
  match r with
  | .startInOpenFrame => s.fstate ≠ .idle ∧ Instr.beginsWithStart i = true ∧ ∀ c d, i ≠ .init c d
  | .byteOutsideFrame => s.fstate = .idle ∧ ((∃ v, i = .wrByte v) ∨ ∃ slot v, encode i = .wire slot v)
  | .stopOutsideFrame => s.fstate = .idle ∧ i = .stop
  | .notInitialised => s.inited = false ∧ (∀ c d, i ≠ .init c d) ∧ (∀ d, i ≠ .dig2Seg d) ∧ ∀ c, i ≠ .chr2Seg c
  | .samePin => ∃ c, i = .init c c
  | .rawLineOp => (∃ l, i = .drvh l) ∨ (∃ l, i = .drvl l) ∨ ∃ l d, i = .setDir l d

/-- R76: what the law says a receiver sees of one operation that appended these symbols: the symbols without samples,
with one extra stop mark in front when its first START is marked. A later START of the same operation follows a STOP,
which leaves both lines high, so only the first can be marked. -/
def expectedMarks (i : Instr) (s : State) (appended : List Sym) : List Mark :=
  (if Instr.beginsWithStart i && s.startIsMarked then [.stop] else []) ++ withoutSamples appended

/-- R76: the same for a sequence of operations, each from the state the ones before it left. -/
def expectedOfRun (is : List Instr) (s : State) : List Mark :=
  match is with
  | [] => []
  | i :: rest =>
    match exec i s with
    | .next t => expectedMarks i s (t.wtrace.drop s.wtrace.length) ++ expectedOfRun rest t
    | .fault _ => []
    | .refused _ => []

end Sys2Proof.Machine
end

