-- ==== Sys2Proof/Certificates/Slice0/Obligations.lean ====
section
/-! DEFINITION. The statements for the provers. Each docstring names the rule or section of spec/ it formalises. In all
of them `prog`, `sample`, `pending`, `oracle`, `reads`, `starts` and `cfg` are the model's own fields (INVENTORY.md), and
`afterTraffic` says what sending leaves in them too. -/

open Sys2Proof Sys2Proof.Machine

/-! Encoding -/

/-- 95_test_vectors.md 2.1 and 30_encoding.md R106, R100: some words written out there decode to the operations they
stand for. -/
def Obligations.SpecWordsDecode : Prop :=
  decode (.cmd 0x120300#24) = .ok (.setDir .dio .input)
    ∧ decode (.cmd 0x210044#24) = .ok (.wrByte 0x44#8)
    ∧ decode (.cmd 0x30006D#24) = .ok (.wrSeg 0x00#8 0x6D#8)
    ∧ decode (.cmd 0x350102#24) = .ok (.init 0x01#8 0x02#8)
    ∧ decode (.cmd 0x410035#24) = .ok (.chr2Seg 0x35#8)
    ∧ decode (.cmd 0x31FF77#24) = .ok (.setColon true)
    ∧ decode (.wire .command 0b10001111#8) = .ok (.wireCtrlCmd true 7#3)
    ∧ decode (.cmd 0x140000#24) = .reserved 0x14#8

/-- 30_encoding.md R90, R91, R100: no bit of an encoding is dropped; every operation, with every operand at every
value, is what its canonical encoding decodes to. -/
def Obligations.DecodeOfEncode : Prop := ∀ i : Instr, decode (encode i) = .ok i

/-- 30_encoding.md R96: operand bits an operation does not use change nothing and the canonical encoding has them 0;
for a wire byte every bit counts. -/
def Obligations.UnusedOperandBitsIgnored : Prop :=
  (∀ (w : CmdWord) (i : Instr), decode (.cmd w) = .ok i →
    ∃ mask, usedBits (w.extractLsb' 16 8) = some mask ∧ encode i = .cmd (w &&& mask) ∧
      ∀ v : CmdWord, v &&& mask = w &&& mask → decode (.cmd v) = .ok i)
    ∧ ∀ (slot : Slot) (v : Byte) (i : Instr), decode (.wire slot v) = .ok i → encode i = .wire slot v

/-- 30_encoding.md R97: a step refuses a presented command word exactly when its opcode is in the reserved ranges. -/
def Obligations.ReservedOpcodesRefused : Prop :=
  ∀ (s : State) (w : CmdWord) (rest : List Code), s.busy = false → s.pending = .cmd w :: rest →
    (isReserved (w.extractLsb' 16 8) ↔ step s = .refused (.reservedOpcode (w.extractLsb' 16 8)))
      ∧ (¬ isReserved (w.extractLsb' 16 8) ↔ ∃ t, step s = .next t)

/-- 30_encoding.md R99, R100: the three commands are told apart by bits 7..6, and the bytes of the patterns are the
values the document gives by OR. -/
def Obligations.WireBytesAreThePatterns : Prop :=
  (∀ f, encode (.wireDataCmd f) = .wire .command (0x40#8 ||| if f then 0x04#8 else 0x00#8))
    ∧ (∀ p : Pos, encode (.wireAddrCmd p) = .wire .command (0xC0#8 ||| p.setWidth 8))
    ∧ (∀ e (b : BitVec 3), encode (.wireCtrlCmd e b)
        = .wire .command (0x80#8 ||| b.setWidth 8 ||| if e then 0x08#8 else 0x00#8))
    ∧ (∀ c (g : BitVec 7), encode (.wireSegByte c g)
        = .wire .segment ((if c then 0x80#8 else 0x00#8) ||| g.setWidth 8))
    ∧ ∀ (v : Byte) (i : Instr), decode (.wire .command v) = .ok i →
        (v.extractLsb' 6 2 = 0b01#2 ↔ ∃ f, i = .wireDataCmd f)
          ∧ (v.extractLsb' 6 2 = 0b11#2 ↔ ∃ p, i = .wireAddrCmd p)
          ∧ (v.extractLsb' 6 2 = 0b10#2 ↔ ∃ e b, i = .wireCtrlCmd e b)

/-! The step -/

/-- 30_encoding.md R92: a free engine takes the word the host presents, decodes it and runs the operation. -/
def Obligations.StepRunsDecodedOperation : Prop :=
  ∀ (s : State) (c : Code) (rest : List Code) (i : Instr),
    s.busy = false → s.pending = c :: rest → decode c = .ok i → step s = exec i { s with pending := rest }

/-- A placed table word is what the next step runs (the model's own interface, log 13). -/
def Obligations.PlacedWordIsRun : Prop :=
  ∀ (s : State) (nbits w : Nat) (i : Instr), decodeTableWord nbits w = some i →
    step (s.withFetchWord nbits w) = exec i { s with busy := false, useq := none, prog := [] }

/-- 70_reset_and_hazards.md section 1: a free engine that is presented no word does nothing. -/
def Obligations.NoWordNoChange : Prop := ∀ s : State, s.busy = false → s.pending = [] → step s = .next s

/-- 30_encoding.md section 1 (the `busy` handshake): while an operation runs, the words the host presents are not
accepted and have no effect on the step. -/
def Obligations.WordsPresentedWhileBusyHaveNoEffect : Prop :=
  ∀ (s : State) (words : List Code), s.busy = true →
    ∃ t, step s = .next t ∧ t.pending = s.pending
      ∧ step { s with pending := words } = .next { t with pending := words }

/-- 60_exceptions.md section 1: every operation completes, in every state, for every operand and whatever the oracle
answers, and leaves the engine free. -/
def Obligations.EveryOperationCompletes : Prop :=
  ∀ (i : Instr) (s : State), ∃ t, exec i s = .next t ∧ t.busy = false ∧ t.useq = none

/-! Reset -/

/-- 10_state.md section 11: the state after hardware reset. `res`, `reasons`, `sample`, `prog`, `pending`, `reads` and
`starts` are the model's choice (log 7, 8, 9, 13), the rest is the spec's table. -/
def Obligations.ResetLeavesTheTable : Prop :=
  State.reset =
    { lvl := Config.chosen.lvlReset, dir := ⟨.input, .input⟩
      clkPin := Config.chosen.clkPin, dioPin := Config.chosen.dioPin
      fstate := .idle, shreg := 0x00#8, bitcnt := 0#4, busy := false, useq := none, ackQ := true
      buf := Config.chosen.bufReset, brightness := 7#3, enabled := true, colon := false
      viol := false, reasons := [], inited := false, ltrace := [], wtrace := []
      res := 0x00#8, prog := [], sample := false, pending := [], oracle := .script [], reads := 0, starts := 0
      cfg := Config.chosen }

/-- 70_reset_and_hazards.md section 1: after reset the only operations that record no violation are INIT with two
pins, DIG2SEG and CHR2SEG. A wire byte is no operation; that it is checked like one is the model's choice (log 11). -/
def Obligations.OnlyInitAndEncoderAreCleanAfterReset : Prop :=
  ∀ (i : Instr) (t : State), exec i State.reset = .next t →
    (t.viol = false ↔ (∃ c d, i = .init c d ∧ c ≠ d) ∨ (∃ d, i = .dig2Seg d) ∨ (∃ c, i = .chr2Seg c))

/-! Line transport -/

/-- 40_line_transport.md R122, R123: DRVH and DRVL write the latch of the one line, append the event and one delay,
deliver 0x00, and leave everything else as it was; the ghost record is `ReasonsRecorded`'s. -/
def Obligations.DriveWritesOneLatch : Prop :=
  opcodeSelects 0x10#8 (fun a _ => .drvh (if a[0] then .dio else .clk))
    ∧ opcodeSelects 0x11#8 (fun a _ => .drvl (if a[0] then .dio else .clk))
    ∧ ∀ (l : Line) (s : State),
      (∃ t, exec (.drvh l) s = .next t ∧ t.sameButGhost
        { s with
          lvl := s.lvl.set l true, busy := false, useq := none
          ltrace := s.ltrace ++ [.drv l true, .dly], res := 0x00#8 })
      ∧ ∃ t, exec (.drvl l) s = .next t ∧ t.sameButGhost
        { s with
          lvl := s.lvl.set l false, busy := false, useq := none
          ltrace := s.ltrace ++ [.drv l false, .dly], res := 0x00#8 }

/-- 40_line_transport.md R124: SETDIR writes the direction of the one line, never a latch. -/
def Obligations.SetDirWritesOneDirection : Prop :=
  opcodeSelects 0x12#8
      (fun a _ => .setDir (if a[0] then .dio else .clk) (if a[1] then .input else .output))
    ∧ ∀ (l : Line) (d : Dir) (s : State), ∃ t, exec (.setDir l d) s = .next t ∧ t.sameButGhost
        { s with
          dir := s.dir.set l d, busy := false, useq := none
          ltrace := s.ltrace ++ [.dir l d, .dly], res := 0x00#8 }

/-- 40_line_transport.md section 2 (READ): the result is the level the oracle answers, whatever the latch and the
direction are; `ack_q` is not written. `sample` and `reads` are the model's own fields (log 3, 8). -/
def Obligations.ReadDeliversTheOraclesLevel : Prop :=
  opcodeSelects 0x13#8 (fun a _ => .read (if a[0] then .dio else .clk))
    ∧ ∀ (l : Line) (s : State), ∃ t, exec (.read l) s = .next t ∧ t.sameButGhost
      { s with
        busy := false, useq := none, sample := s.answer 0, reads := s.reads + 1
        ltrace := s.ltrace ++ [.rd l (s.answer 0), .dly], res := if s.answer 0 then 0x01#8 else 0x00#8 }

/-- 40_line_transport.md section 3 (the two named oracles): the acknowledging chip answers 0 to every read, the absent
chip 1; so READ and WRBYTE deliver them. The third clause is the model's choice (log 3): a script answers the read with
the number `reads` by its entry of that number, and READ and WRBYTE deliver it. -/
def Obligations.NamedOraclesAnswer : Prop :=
  ∀ (l : Line) (v : Byte) (s : State),
    (s.oracle = .acking →
      ∃ t u, exec (.read l) s = .next t ∧ t.res = 0x00#8 ∧ exec (.wrByte v) s = .next u ∧ u.res = 0x00#8
        ∧ u.ackQ = false)
    ∧ (s.oracle = .absent →
      ∃ t u, exec (.read l) s = .next t ∧ t.res = 0x01#8 ∧ exec (.wrByte v) s = .next u ∧ u.res = 0x01#8
        ∧ u.ackQ = true)
    ∧ ∀ (answers : List Bit) (b : Bit), s.oracle = .script answers → answers[s.reads]? = some b →
      ∃ t u, exec (.read l) s = .next t ∧ t.ltrace = s.ltrace ++ [.rd l b, .dly]
        ∧ exec (.wrByte v) s = .next u ∧ u.ackQ = b ∧ u.wtrace = s.wtrace ++ [.byte v b]

/-! Frame protocol -/

/-- 41_frame_protocol.md R143 with section 2 (the order of the raises): START, in every frame state; the parameter
decides the order, and under `both` either may show. `starts` is the model's counter (log 4). -/
def Obligations.StartOpensAFrame : Prop :=
  opcodeSelects 0x20#8 (fun _ _ => .start)
    ∧ ∀ (s : State) (dioUp clkUp : List Event),
      dioUp = [.drv .dio true, .drv .clk true] → clkUp = [.drv .clk true, .drv .dio true] →
      ∃ t up, exec .start s = .next t
        ∧ (up = dioUp ∨ up = clkUp)
        ∧ (s.cfg.raiseOrder = .dioFirst → up = dioUp) ∧ (s.cfg.raiseOrder = .clkFirst → up = clkUp)
        ∧ (s.fstate ≠ .idle → t.viol = true ∧ .startInOpenFrame ∈ t.reasons)
        ∧ t.sameButGhost
          { s with
            lvl := ⟨true, false⟩, fstate := .framed, busy := false, useq := none
            ltrace := s.ltrace ++ up ++ [.dly, .drv .dio false]
            wtrace := s.wtrace ++ [.start], starts := s.starts + 1, res := 0x00#8 }

/-- 41_frame_protocol.md R145: the bit loop of WRBYTE, and of a wire byte (log 11), is the first thing on the lines:
bit 0 to bit 7 in this order, five micro-steps each, 24 line events and 16 delays. -/
def Obligations.BitLoopSendsLowBitFirst : Prop :=
  (∀ v : Byte, lineEventCount (bitsWave v) = 24 ∧ delayCount (bitsWave v) = 16 ∧ (bitsWave v).length = 40)
    ∧ (∀ (v : Byte) (s : State), ∃ t rest, exec (.wrByte v) s = .next t ∧ t.ltrace = s.ltrace ++ bitsWave v ++ rest)
    ∧ ∀ (v : Byte) (i : Fin 8), (bitsWave v).drop (5 * i) =
        [.drv .clk false, .drv .dio v[i], .dly, .drv .clk true, .dly] ++ (bitsWave v).drop (5 * i + 5)

/-- 41_frame_protocol.md section 3: WRBYTE drives the eight bits least significant first, then the nine micro-steps of
the ACK slot, 24 line events and 16 delays of bits and 6 and 3 of ACK slot; it leaves the clock low, the data latch at
bit 7, the data line an output, the framer cleared, the sample in `ack_q` and in the result; it returns to the frame
state it began in. `sample` and `reads` are the model's own fields (log 3, 8). -/
def Obligations.WriteByteSendsBitsAndSamplesAck : Prop :=
  opcodeSelects 0x21#8 (fun _ b => .wrByte b)
    ∧ (∀ (v : Byte) (a : Bit),
        lineEventCount (byteWave v a) = 24 + 6 ∧ delayCount (byteWave v a) = 16 + 3)
    ∧ ∀ (v : Byte) (s : State), ∃ t, exec (.wrByte v) s = .next t
      ∧ (s.fstate = .idle → t.viol = true ∧ .byteOutsideFrame ∈ t.reasons)
      ∧ t.sameButGhost
        { s with
          lvl := ⟨false, v[7]⟩, dir := ⟨s.dir.clk, .output⟩
          fstate := if s.fstate = .idle then .idle else .framed
          shreg := 0x00#8, bitcnt := 0#4, busy := false, useq := none
          ackQ := s.answer 0, sample := s.answer 0, reads := s.reads + 1
          ltrace := s.ltrace ++ byteWave v (s.answer 0)
          wtrace := s.wtrace ++ [.byte v (s.answer 0)]
          res := if s.answer 0 then 0x01#8 else 0x00#8 }

/-- 41_frame_protocol.md R149: STOP, in every frame state. -/
def Obligations.StopClosesTheFrame : Prop :=
  opcodeSelects 0x22#8 (fun _ _ => .stop)
    ∧ ∀ s : State, ∃ t, exec .stop s = .next t
      ∧ (s.fstate = .idle → t.viol = true ∧ .stopOutsideFrame ∈ t.reasons)
      ∧ t.sameButGhost
        { s with
          lvl := ⟨true, true⟩, fstate := .idle, busy := false, useq := none
          ltrace := s.ltrace
            ++ [.drv .clk false, .dly, .drv .dio false, .dly, .drv .clk true, .dly, .drv .dio true]
          wtrace := s.wtrace ++ [.stop], res := 0x00#8 }

/-- 41_frame_protocol.md R150: COMMAND is start, write-byte, stop: one frame of one byte, 37 line events and 23
delays, result 0x00 whatever the sample, which `ack_q` keeps. `sample`, `reads` and `starts` are the model's own fields
(log 3, 4, 8), and `dioFirst` is the parameter's order, under `both` a free value (log 4). -/
def Obligations.CommandSendsOneByteFrame : Prop :=
  opcodeSelects 0x23#8 (fun _ b => .command b)
    ∧ (∀ (d : Bool) (v : Byte) (a : Bit),
        lineEventCount (commandWave d v a) = 37 ∧ delayCount (commandWave d v a) = 23)
    ∧ ∀ (v : Byte) (s : State), ∃ t, exec (.command v) s = .next t
      ∧ (s.fstate ≠ .idle → t.viol = true ∧ .startInOpenFrame ∈ t.reasons)
      ∧ t.sameButGhost
        { s with
          lvl := ⟨true, true⟩, dir := ⟨s.dir.clk, .output⟩, fstate := .idle
          shreg := 0x00#8, bitcnt := 0#4, busy := false, useq := none
          ackQ := s.answer 0, sample := s.answer 0, reads := s.reads + 1, starts := s.starts + 1
          ltrace := s.ltrace ++ commandWave (dioFirst s) v (s.answer 0)
          wtrace := s.wtrace ++ [.start, .byte v (s.answer 0), .stop], res := 0x00#8 }

/-- 30_encoding.md section 4 with 41_frame_protocol.md section 3: each wire byte, the three commands and the segment
byte, with every operand, is sent by the byte unit, least significant bit first. That this sending is the meaning of a
wire byte (`wireDataCmd`, `wireAddrCmd`, `wireCtrlCmd`, `wireSegByte`) is the model's choice (log 11). -/
def Obligations.WireBytesAreFramedOut : Prop :=
  ∀ (i : Instr) (slot : Slot) (v : Byte) (s : State), encode i = .wire slot v →
    ∃ t, exec i s = .next t ∧ t.sameButGhost
      { s with
        lvl := ⟨false, v[7]⟩, dir := ⟨s.dir.clk, .output⟩
        fstate := if s.fstate = .idle then .idle else .framed
        shreg := 0x00#8, bitcnt := 0#4, busy := false, useq := none
        ackQ := s.answer 0, sample := s.answer 0, reads := s.reads + 1
        ltrace := s.ltrace ++ byteWave v (s.answer 0)
        wtrace := s.wtrace ++ [.byte v (s.answer 0)]
        res := if s.answer 0 then 0x01#8 else 0x00#8 }

/-- 60_exceptions.md section 4 (the reasons a violation records): each operation records exactly the reasons of the
table `recordsReason`, and sets `viol` exactly when it records one. A wire byte is checked like WRBYTE by the model's
choice (log 11). -/
def Obligations.ReasonsRecorded : Prop :=
  ∀ (i : Instr) (s : State), ∃ t, exec i s = .next t
    ∧ (∀ r, r ∈ t.reasons ↔ r ∈ s.reasons ∨ recordsReason i s r)
    ∧ (t.viol = true ↔ s.viol = true ∨ ∃ r, recordsReason i s r)

/-! Display state -/

/-- 42_display_state.md section 2 (WRSEG): position modulo 4, the colon overlaid at position 1 only, the data-write
transaction sent unless the cache holds the composed byte, the control byte sent in all cases, the cache then holding
the composed byte; nothing else of the engine changes. -/
def Obligations.WriteSegmentEffect : Prop :=
  opcodeSelects 0x30#8 (fun a b => .wrSeg a b)
    ∧ ∀ (a raw : Byte) (s : State) (p : Pos) (v : Byte),
      p = a.extractLsb' 0 2 → v = (if p = 1#2 ∧ s.colon = true then raw ||| 0x80#8 else raw) →
      ∃ t, exec (.wrSeg a raw) s = .next t ∧ t.sameButGhost
        { s.afterTraffic ((if v ≠ s.buf.get p then [.dataWrite p v] else []) ++ [.single s.ctrl]) with
          buf := s.buf.set p v }

/-- 42_display_state.md R186: DISPDIGIT is WRSEG of the digit's segments, and the cached byte is then those segments,
up to bit 7 where the colon is overlaid. -/
def Obligations.DisplayDigitEffect : Prop :=
  opcodeSelects 0x36#8 (fun a b => .dispDigit a b)
    ∧ ∀ (a d : Byte) (s : State),
      exec (.dispDigit a d) s = exec (.wrSeg a (digitSegments s.cfg.digitLut d)) s
        ∧ ∃ t, exec (.dispDigit a d) s = .next t ∧ t.res = 0x00#8
          ∧ t.buf.get (a.extractLsb' 0 2) =
            if a.extractLsb' 0 2 = 1#2 ∧ s.colon = true then digitSegments s.cfg.digitLut d ||| 0x80#8
            else digitSegments s.cfg.digitLut d

/-- 42_display_state.md section 3 (SETCOLON): the colon flag is written and position 1 is rewritten with the bit
included or excluded, whatever the cache holds; then the control byte. -/
def Obligations.SetColonRewritesPositionOne : Prop :=
  opcodeSelects 0x31#8 (fun a _ => .setColon a[0])
    ∧ ∀ (f : Bool) (s : State) (v : Byte),
      v = ((s.buf.get 1#2 &&& 0x7F#8) ||| if f then 0x80#8 else 0x00#8) →
      ∃ t, exec (.setColon f) s = .next t ∧ t.sameButGhost
        { s.afterTraffic [.dataWrite 1#2 v, .single s.ctrl] with colon := f, buf := s.buf.set 1#2 v }

/-- 42_display_state.md section 3: colon on, off, on forces three rewrites of position 1, carrying `g|0x80`, `g`,
`g|0x80`, though the base value never changes. -/
def Obligations.ColonOnOffOnRewritesThrice : Prop :=
  ∀ (s : State) (g : Byte), g = s.buf.get 1#2 &&& 0x7F#8 →
    ∃ t, execAll [.setColon true, .setColon false, .setColon true] s = .next t
      ∧ t.wtrace = s.wtrace
        ++ dataWriteFrames 1#2 (g ||| 0x80#8) (s.answer 0) (s.answer 1) (s.answer 2) ++ oneByteFrame s.ctrl (s.answer 3)
        ++ dataWriteFrames 1#2 g (s.answer 4) (s.answer 5) (s.answer 6) ++ oneByteFrame s.ctrl (s.answer 7)
        ++ dataWriteFrames 1#2 (g ||| 0x80#8) (s.answer 8) (s.answer 9) (s.answer 10)
        ++ oneByteFrame s.ctrl (s.answer 11)
      ∧ t.colon = true ∧ t.buf = s.buf.set 1#2 (g ||| 0x80#8)

/-- 42_display_state.md R179: brightness is truncated to 3 bits, never rejected, and the control byte that carries it
is sent whether or not it changed. -/
def Obligations.SetBrightnessMasksAndSends : Prop :=
  opcodeSelects 0x32#8 (fun _ b => .setBrt b)
    ∧ ∀ (v : Byte) (s : State), ∃ t, exec (.setBrt v) s = .next t ∧ t.sameButGhost
        { s.afterTraffic
            [.single (0x80#8 ||| (v &&& 0x07#8) ||| if s.enabled then 0x08#8 else 0x00#8)] with
          brightness := v.extractLsb' 0 3 }

/-- 42_display_state.md R180: the enabled flag is written and the control byte sent; the buffer is not touched. -/
def Obligations.SetEnabledSendsOnFlag : Prop :=
  opcodeSelects 0x33#8 (fun a _ => .setEn a[0])
    ∧ ∀ (f : Bool) (s : State), ∃ t, exec (.setEn f) s = .next t ∧ t.sameButGhost
        { s.afterTraffic
            [.single (0x80#8 ||| s.brightness.setWidth 8 ||| if f then 0x08#8 else 0x00#8)] with
          enabled := f }

/-- 42_display_state.md R182: CLEAR leaves the colon off and the cache blank, whatever was before, and sends
`DATAWR(1, g)`, the control byte, then for each position its blank if the cached byte is not 0x00, and the control
byte: `8 + 3k` bytes. -/
def Obligations.ClearBlanksThroughTheCache : Prop :=
  opcodeSelects 0x34#8 (fun _ _ => .clear)
    ∧ ∀ s : State, ∃ t, exec .clear s = .next t
      ∧ trafficBytes (clearTraffic s.buf s.ctrl) = 8 + 3 * clearCount s.buf
      ∧ t.sameButGhost
        { s.afterTraffic (clearTraffic s.buf s.ctrl) with
          colon := false, buf := ⟨0x00#8, 0x00#8, 0x00#8, 0x00#8⟩ }

/-- 42_display_state.md section 6 (INIT): the pins, the two directions each with its delay, the defaults and the frame
state, then CLEAR; `viol` changes by equal pins only; the state after is the one of the section whatever was before. -/
def Obligations.InitEffect : Prop :=
  opcodeSelects 0x35#8 (fun a b => .init a b)
    ∧ ∀ (c d : Byte) (s : State), ∃ t, exec (.init c d) s = .next t
      ∧ t.viol = (s.viol || decide (c = d))
      ∧ t.sameButGhost
        { State.afterTraffic
            { s with
              clkPin := c, dioPin := d, dir := ⟨.output, .output⟩, fstate := .idle, inited := true
              ltrace := s.ltrace ++ [.dir .clk .output, .dly, .dir .dio .output, .dly]
              brightness := 7#3, enabled := true }
            (clearTraffic s.buf 0x8F#8) with
          colon := false, buf := ⟨0x00#8, 0x00#8, 0x00#8, 0x00#8⟩ }

/-- 42_display_state.md section 2 (no-op suppression): of two successive writes of one byte to one position, the
second sends the control byte alone, and the two send at most five bytes. -/
def Obligations.RepeatedWriteIsSuppressed : Prop :=
  ∀ (a a' raw : Byte) (s : State), a.extractLsb' 0 2 = a'.extractLsb' 0 2 →
    ∃ t u, exec (.wrSeg a raw) s = .next t ∧ exec (.wrSeg a' raw) t = .next u
      ∧ u.wtrace = t.wtrace ++ oneByteFrame s.ctrl (t.answer 0) ∧ u.buf = t.buf
      ∧ (byteCount u.wtrace = byteCount s.wtrace + 5 ∨
          (byteCount u.wtrace = byteCount s.wtrace + 2 ∧ t.buf = s.buf))

/-- 42_display_state.md section 8 and 70_reset_and_hazards.md section 5: frames, bytes, line events, delays and
micro-steps of every operation of the display layer, as the table gives them. -/
def Obligations.TrafficCounts : Prop :=
  ∀ (s t : State) (i : Instr) (x k : Nat), exec i s = .next t →
    let counts : Nat × Nat × Nat × Nat × Nat :=
      (frameCount (t.wtrace.drop s.wtrace.length), byteCount (t.wtrace.drop s.wtrace.length),
        lineEventCount (t.ltrace.drop s.ltrace.length), delayCount (t.ltrace.drop s.ltrace.length),
        microCount (scriptOf i (accept s)).1)
    (∀ a raw, i = .wrSeg a raw →
        x = (if compose (position a) raw s.colon = s.buf.get (position a) then 0 else 1) →
        counts = (1 + 2 * x, 1 + 3 * x, 37 + 104 * x, 23 + 65 * x, 60 + 169 * x))
      ∧ (∀ a d, i = .dispDigit a d →
        x = (if compose (position a) (digitSegments s.cfg.digitLut d) s.colon = s.buf.get (position a) then 0 else 1) →
        counts = (1 + 2 * x, 1 + 3 * x, 37 + 104 * x, 23 + 65 * x, 60 + 169 * x))
      ∧ (∀ f, i = .setColon f → counts = (3, 4, 141, 88, 229))
      ∧ (∀ v, i = .setBrt v → counts = (1, 1, 37, 23, 60))
      ∧ (∀ f, i = .setEn f → counts = (1, 1, 37, 23, 60))
      ∧ (i = .clear → k = clearCount s.buf →
          counts = (7 + 2 * k, 8 + 3 * k, 289 + 104 * k, 180 + 65 * k, 469 + 169 * k))
      ∧ (∀ c d, i = .init c d → k = clearCount s.buf →
          counts = (7 + 2 * k, 8 + 3 * k, 291 + 104 * k, 182 + 65 * k, 473 + 169 * k))

/-! Encoder -/

/-- 43_encoder.md R201: DIG2SEG delivers the table's entry for 0 to 9, with 0x6D for 5, and the blank for every other
byte; bit 7 is 0; it writes nothing but the result. -/
def Obligations.DigitToSegments : Prop :=
  opcodeSelects 0x40#8 (fun _ b => .dig2Seg b)
    ∧ ∀ (d : Byte) (s : State), ∃ v : Byte,
      exec (.dig2Seg d) s = .next { s with busy := false, useq := none, res := v }
        ∧ v[7] = false ∧ (9#8 < d → v = 0x00#8) ∧ (d = 5#8 → v = 0x6D#8)
        ∧ (d = 0#8 → v = s.cfg.digitLut.d0.setWidth 8) ∧ (d = 1#8 → v = s.cfg.digitLut.d1.setWidth 8)
        ∧ (d = 2#8 → v = s.cfg.digitLut.d2.setWidth 8) ∧ (d = 3#8 → v = s.cfg.digitLut.d3.setWidth 8)
        ∧ (d = 4#8 → v = s.cfg.digitLut.d4.setWidth 8) ∧ (d = 6#8 → v = s.cfg.digitLut.d6.setWidth 8)
        ∧ (d = 7#8 → v = s.cfg.digitLut.d7.setWidth 8) ∧ (d = 8#8 → v = s.cfg.digitLut.d8.setWidth 8)
        ∧ (d = 9#8 → v = s.cfg.digitLut.d9.setWidth 8)

/-- 43_encoder.md R204: CHR2SEG gives the ASCII digits the digit patterns, a mapped code its pattern, and every other
code the blank; it writes nothing but the result. -/
def Obligations.CharToSegments : Prop :=
  opcodeSelects 0x41#8 (fun _ b => .chr2Seg b)
    ∧ ∀ (c : Byte) (s : State), ∃ v : Byte,
      exec (.chr2Seg c) s = .next { s with busy := false, useq := none, res := v }
        ∧ (0x30#8 ≤ c ∧ c ≤ 0x39#8 → exec (.chr2Seg c) s = exec (.dig2Seg (c - 0x30#8)) s)
        ∧ (¬ (0x30#8 ≤ c ∧ c ≤ 0x39#8) → (s.cfg.charMap.map Prod.fst).Nodup →
            ∀ g, (c, g) ∈ s.cfg.charMap → v = g.setWidth 8)
        ∧ (¬ (0x30#8 ≤ c ∧ c ≤ 0x39#8) → (∀ e ∈ s.cfg.charMap, e.1 ≠ c) → v = 0x00#8)

/-- 43_encoder.md R206: DIG2SEG and CHR2SEG read the same ten digit patterns, under every value of the parameters. -/
def Obligations.EncodersShareTheDigits : Prop :=
  ∀ (d : Byte) (s : State), d ≤ 9#8 → ∃ t, exec (.chr2Seg (0x30#8 + d)) s = .next t ∧ exec (.dig2Seg d) s = .next t

/-! The whole machine -/

/-- 10_state.md section 12 (who writes what): every register of the table is written by the operations whose row lists
it and by no other (a wire byte counts as WRBYTE, log 11), and no operation changes the parameters, the oracle or the
host's words. -/
def Obligations.WriteSets : Prop :=
  ∀ (i : Instr) (s t : State), exec i s = .next t →
    (t.cfg = s.cfg ∧ t.oracle = s.oracle ∧ t.pending = s.pending ∧ t.prog = s.prog)
      ∧ ((∀ c d, i ≠ .init c d) → t.clkPin = s.clkPin ∧ t.dioPin = s.dioPin ∧ t.inited = s.inited)
      ∧ ((∀ c d, i ≠ .init c d) → (∀ d, i ≠ .setDir .clk d) → t.dir.clk = s.dir.clk)
      ∧ (∀ l m : Line, m ≠ l → (∃ d, i = .setDir l d) → t.dir.get m = s.dir.get m)
      ∧ ((∃ l, i = .drvh l ∨ i = .drvl l ∨ i = .read l) ∨ i = .start ∨ i = .stop → t.dir = s.dir)
      ∧ (∀ l m : Line, m ≠ l → i = .drvh l ∨ i = .drvl l → t.lvl.get m = s.lvl.get m)
      ∧ ((∃ l, i = .read l ∨ ∃ d, i = .setDir l d) → t.lvl = s.lvl)
      ∧ ((∃ b, i = .dig2Seg b ∨ i = .chr2Seg b) → t = { s with busy := false, useq := none, res := t.res })
      ∧ ((∀ v, i ≠ .setBrt v) → (∀ c d, i ≠ .init c d) → t.brightness = s.brightness)
      ∧ ((∀ f, i ≠ .setEn f) → (∀ c d, i ≠ .init c d) → t.enabled = s.enabled)
      ∧ ((∀ f, i ≠ .setColon f) → i ≠ .clear → (∀ c d, i ≠ .init c d) → t.colon = s.colon)
      ∧ (Instr.isFrameSafe i ∨ i = .start ∨ i = .stop ∨ (∃ v, i = .wrByte v) ∨ (∃ slot v, encode i = .wire slot v)
          ∨ (t.fstate = s.fstate ∧ t.wtrace = s.wtrace))
      ∧ (Instr.isFrameSafe i ∨ (∃ v, i = .wrByte v) ∨ (∃ slot v, encode i = .wire slot v)
          ∨ (t.ackQ = s.ackQ ∧ t.shreg = s.shreg ∧ t.bitcnt = s.bitcnt))
      ∧ ∀ p : Pos, t.buf.get p = s.buf.get p
          ∨ (∃ a b, (i = .wrSeg a b ∨ i = .dispDigit a b) ∧ a.extractLsb' 0 2 = p)
          ∨ ((∃ f, i = .setColon f) ∧ p = 1#2) ∨ i = .clear ∨ ∃ c d, i = .init c d

/-- 70_reset_and_hazards.md section 4 (raw bytes bypass the cache): START, WRBYTE, STOP and COMMAND, whatever the byte
is, never write the cache, the brightness, the enabled flag or the colon flag. -/
def Obligations.RawBytesBypassTheDisplayState : Prop :=
  ∀ (is : List Instr) (s : State),
    (∀ i ∈ is, i = .start ∨ i = .stop ∨ (∃ v, i = .wrByte v) ∨ ∃ v, i = .command v) →
    ∃ t, execAll is s = .next t ∧ t.buf = s.buf ∧ t.brightness = s.brightness ∧ t.enabled = s.enabled
      ∧ t.colon = s.colon

/-- 10_state.md section 13 (e): bit 7 comes to a position other than 1 only by a raw byte the host itself wrote
there. -/
def Obligations.ColonBitElsewhereIsTheHosts : Prop :=
  ∀ (i : Instr) (s t : State) (p : Pos), exec i s = .next t → p ≠ 1#2 → (t.buf.get p)[7] = true →
    (s.buf.get p)[7] = true ∨ ∃ a raw, i = .wrSeg a raw ∧ a.extractLsb' 0 2 = p ∧ raw[7] = true

/-- 10_state.md section 13 (a) and 60_exceptions.md section 3: what holds between operations is kept by every step,
and so is the agreement of the ghost flag with its reasons. -/
def Obligations.QuietStateIsKept : Prop :=
  ∀ s t : State, s.isQuiet → s.ghostAgrees → step s = .next t → t.isQuiet ∧ t.ghostAgrees

/-- 10_state.md section 11: hardware reset establishes what every step keeps. -/
def Obligations.ResetIsQuiet : Prop := State.reset.isQuiet ∧ State.reset.ghostAgrees

/-- 60_exceptions.md section 4: `viol` is sticky and no recorded reason is lost, at every step, one micro-step of a
running operation included. -/
def Obligations.ViolationIsSticky : Prop :=
  ∀ s t : State, step s = .next t → (s.viol = true → t.viol = true) ∧ ∀ r ∈ s.reasons, r ∈ t.reasons

/-- 20_memory.md section 6: both traces only grow, in program order. -/
def Obligations.TracesOnlyGrow : Prop :=
  ∀ s t : State, step s = .next t → s.ltrace <+: t.ltrace ∧ s.wtrace <+: t.wtrace

/-- 10_state.md section 13 (c): from a parked engine a frame-safe operation leaves a parked engine and appends whole
frames of one or two bytes, and a public one appends only what the display layer sends: the data command 0x44, a
control byte, or an address 0xC0..0xC3 with its segment byte. -/
def Obligations.FrameSafeOperationsSendWholeFrames : Prop :=
  ∀ (i : Instr) (s : State), Instr.isFrameSafe i → s.isParked →
    ∃ t w, exec i s = .next t ∧ t.isParked ∧ t.wtrace = s.wtrace ++ w ∧ isFrames w = true
      ∧ (Instr.isPublic i → isDisplayTraffic w = true)

/-- 60_exceptions.md section 5 (the law of the contract levels): a host that issues INIT with two different pins and
then only frame-safe operations never sets `viol`, and finds `Idle` between any two of its operations. -/
def Obligations.ContractKeepingHostNeverViolates : Prop :=
  ∀ (c d : Byte) (is : List Instr) (s : State), c ≠ d → s.viol = false → (∀ i ∈ is, Instr.keepsContract i) →
    ∃ t, execAll (.init c d :: is) s = .next t ∧ t.isServing ∧ t.isSafeEnd ∧ t.isParked

/-- 00_scope.md section 7: no choice depends on the ACK sample or any other answer of the chip. Runs of the same
operations from states that differ in the oracle only agree in everything but the answers, and every operation that is
not READ, WRBYTE or a wire byte delivers the same result. -/
def Obligations.OracleNeverSteersTheEngine : Prop :=
  (∀ (is : List Instr) (s t : State), s.sameButAnswers t →
    ∃ s' t', execAll is s = .next s' ∧ execAll is t = .next t' ∧ s'.sameButAnswers t')
    ∧ ∀ (i : Instr) (s t : State), s.sameButAnswers t → (∀ l, i ≠ .read l) → (∀ v, i ≠ .wrByte v) →
      (∀ slot v, encode i ≠ .wire slot v) →
      ∃ s' t', exec i s = .next s' ∧ exec i t = .next t' ∧ s'.res = t'.res

/-- 00_scope.md section 4 (the two granularities agree) and 10_state.md section 2: the micro-sequencer, begun on an
operation, has `busy = 1` and `useq = k` after `k` micro-steps until the last, and then is where the operation-level
effect leads. -/
def Obligations.MicroSequencerRefinesOperations : Prop :=
  ∀ (i : Instr) (s : State) (n : Nat), s.prog = [] → n = microCount (scriptOf i (accept s)).1 →
    exec i s = .next (microSteps n (begin i s))
      ∧ ∀ k, k < n → (microSteps k (begin i s)).busy = true ∧ (microSteps k (begin i s)).useq = some k

/-- 70_reset_and_hazards.md section 5: every operation is a finite list of micro-steps, at most 1149. -/
def Obligations.AtMost1149MicroSteps : Prop :=
  ∀ (i : Instr) (s : State), s.prog = [] →
    ∃ k, k ≤ 1149 ∧ exec i s = .next (microSteps k (begin i s)) ∧ (microSteps k (begin i s)).busy = false

/-- 10_state.md section 4 and 3: within a WRBYTE `fstate` is `Transmitting` from the first to the last micro-step, and
the data line is an input exactly from `A2` (the 42nd) to before `A9` (the 49th). -/
def Obligations.TransmittingAndTurnAround : Prop :=
  ∀ (v : Byte) (s : State) (k : Nat), s.dir.dio = .output → 1 ≤ k → k < 49 →
    (microSteps k (begin (.wrByte v) s)).fstate = .transmitting
      ∧ ((microSteps k (begin (.wrByte v) s)).dir.dio = .input ↔ 42 ≤ k)
      ∧ (microSteps k (begin (.wrByte v) s)).bitcnt = if k < 40 then BitVec.ofNat 4 (k / 5) else 8#4

/-- 20_memory.md section 7 (cache and chip): over a run of frame-safe operations the cache holds, at each position, the
segment byte of the last data-write transaction sent to it, or what it held before. -/
def Obligations.CacheMirrorsWhatWasSent : Prop :=
  ∀ (is : List Instr) (s : State), (∀ i ∈ is, Instr.isFrameSafe i) →
    ∃ t w, execAll is s = .next t ∧ t.wtrace = s.wtrace ++ w ∧ t.buf = sentOver s.buf w

/-- 20_memory.md section 8 (the law of the wire decoder): with both lines outputs and no host-issued DRVH, DRVL or
SETDIR, what a receiver decodes from the line events of a run is its wire trace without the samples, with one extra
stop mark before the start mark of every marked START. -/
def Obligations.DecodedWireEqualsWireTrace : Prop :=
  ∀ (is : List Instr) (s : State), s.dir = ⟨.output, .output⟩ → (∀ i ∈ is, Instr.leavesLinesToEngine i = true) →
    ∃ t, execAll is s = .next t
      ∧ wireDecode (receiverOf s) (t.ltrace.drop s.ltrace.length) = expectedOfRun is s

/-! Host expansions -/

/-- 43_encoder.md section 5: there are `L + 4` frames, and they are the stream of segment bytes and four blanks shifted
from the right through a window of four blanks; the last frame is all blank. -/
def Obligations.ScrollShiftsThroughTheWindow : Prop :=
  ∀ (cfg : Config) (text stream : List Byte),
    stream = text.map (charSegments cfg) ++ [0x00#8, 0x00#8, 0x00#8, 0x00#8] →
    (scrollFrames cfg text).length = text.length + 4
      ∧ (scrollFrames cfg text).head? = some ⟨0x00#8, 0x00#8, 0x00#8, (stream[0]?).getD 0x00#8⟩
      ∧ (∀ (k : Nat) (f g : Cells), (scrollFrames cfg text)[k]? = some f →
          (scrollFrames cfg text)[k + 1]? = some g → g = ⟨f.p1, f.p2, f.p3, (stream[k + 1]?).getD 0x00#8⟩)
      ∧ (scrollFrames cfg text).getLast? = some ⟨0x00#8, 0x00#8, 0x00#8, 0x00#8⟩

/-- 43_encoder.md section 5 (SCROLL): the expansion is `4 (L + 4)` writes and `L + 4` waits; after it the cache is
blank but for the colon bit of position 1, and the colon flag is as before. -/
def Obligations.ScrollLeavesABlankDisplay : Prop :=
  ∀ (s : State) (text : List Byte),
    (issued (hostScroll s.cfg text)).length = 4 * (text.length + 4)
      ∧ (hostScroll s.cfg text).count .waitScroll = text.length + 4
      ∧ ∃ t, execAll (issued (hostScroll s.cfg text)) s = .next t ∧ t.colon = s.colon
        ∧ t.buf = ⟨0x00#8, if s.colon then 0x80#8 else 0x00#8, 0x00#8, 0x00#8⟩
end

