-- ==== Sys2Proof/Laws/Decode.lean ====
section
/-! SUPPORT. The fields of a command word put together from its three bytes (30_encoding.md R90). -/

namespace Sys2Proof

/-- The number a command word is. -/
theorem cmdWord_toNat (op a b : Byte) :
    (cmdWord op a b).toNat = op.toNat * 65536 + a.toNat * 256 + b.toNat := by
  have ha := a.isLt
  have hb := b.isLt
  simp only [cmdWord, BitVec.toNat_append, Nat.shiftLeft_eq]
  rw [Nat.mul_comm, ← Nat.two_pow_add_eq_or_of_lt hb, Nat.mul_comm op.toNat, ← Nat.two_pow_add_eq_or_of_lt ha]
  omega

@[simp] theorem opField_cmdWord (op a b : Byte) : opField (cmdWord op a b) = op := by
  apply BitVec.eq_of_toNat_eq
  have := op.isLt; have := a.isLt; have := b.isLt
  simp only [opField, BitVec.extractLsb'_toNat, cmdWord_toNat, Nat.shiftRight_eq_div_pow]
  omega

@[simp] theorem aField_cmdWord (op a b : Byte) : aField (cmdWord op a b) = a := by
  apply BitVec.eq_of_toNat_eq
  have := op.isLt; have := a.isLt; have := b.isLt
  simp only [aField, BitVec.extractLsb'_toNat, cmdWord_toNat, Nat.shiftRight_eq_div_pow]
  omega

@[simp] theorem bField_cmdWord (op a b : Byte) : bField (cmdWord op a b) = b := by
  apply BitVec.eq_of_toNat_eq
  have := op.isLt; have := a.isLt; have := b.isLt
  simp only [bField, BitVec.extractLsb'_toNat, cmdWord_toNat, Nat.shiftRight_eq_div_pow]
  omega

/-- Every command word is put together from its three fields. -/
theorem cmdWord_fields (w : CmdWord) : cmdWord (opField w) (aField w) (bField w) = w := by
  apply BitVec.eq_of_toNat_eq
  have := w.isLt
  simp only [cmdWord_toNat, opField, aField, bField, BitVec.extractLsb'_toNat, Nat.shiftRight_eq_div_pow]
  omega

/-- A command word is decoded by its three bytes. -/
theorem decode_cmdWord (op a b : Byte) : decode (.cmd (cmdWord op a b)) = decodeFields op a b := by
  simp only [decode, opField_cmdWord, aField_cmdWord, bField_cmdWord]

end Sys2Proof
end

