-- ==== Sys2Proof/Laws/State.lean ====
section
/-! SUPPORT. The small lemmas of the containers and of the updates of the state: what each update leaves of each field
it can change, and that it leaves every other field alone. -/

namespace Sys2Proof

@[simp] theorem PerLine.get_clk {α : Type} (x : PerLine α) : x.get .clk = x.clk := rfl
@[simp] theorem PerLine.get_dio {α : Type} (x : PerLine α) : x.get .dio = x.dio := rfl
@[simp] theorem PerLine.set_clk {α : Type} (x : PerLine α) (v : α) : x.set .clk v = ⟨v, x.dio⟩ := rfl
@[simp] theorem PerLine.set_dio {α : Type} (x : PerLine α) (v : α) : x.set .dio v = ⟨x.clk, v⟩ := rfl

theorem PerLine.get_set_same {α : Type} (x : PerLine α) (l : Line) (v : α) : (x.set l v).get l = v := by
  cases l <;> rfl

theorem PerLine.get_set_other {α : Type} (x : PerLine α) {l m : Line} (v : α) (h : m ≠ l) :
    (x.set l v).get m = x.get m := by
  cases l <;> cases m <;> first | rfl | exact absurd rfl h

@[simp] theorem Cells.get_set_same (c : Cells) (p : Pos) (v : Byte) : (c.set p v).get p = v := by
  unfold Cells.get Cells.set; split_ifs <;> rfl

theorem Cells.get_set_other (c : Cells) {p q : Pos} (v : Byte) (h : q ≠ p) : (c.set p v).get q = c.get q := by
  revert h; unfold Cells.get Cells.set
  have key : ∀ p q : Pos, q ≠ p → p ≠ 0#2 → p ≠ 1#2 → p ≠ 2#2 → q ≠ 0#2 → q ≠ 1#2 → q ≠ 2#2 → False := by decide
  intro h; split_ifs <;> first | rfl | (subst_vars; exact absurd rfl h) | (exfalso; exact key p q h ‹_› ‹_› ‹_› ‹_› ‹_› ‹_›)

@[simp] theorem Cells.set_get_self (c : Cells) (p : Pos) : c.set p (c.get p) = c := by
  unfold Cells.get Cells.set; split_ifs <;> rfl

@[simp] theorem Cells.set_set (c : Cells) (p : Pos) (v w : Byte) : (c.set p v).set p w = c.set p w := by
  unfold Cells.set; split_ifs <;> rfl

@[simp] theorem Cells.get_zero (c : Cells) : c.get 0#2 = c.p0 := rfl
@[simp] theorem Cells.get_one (c : Cells) : c.get 1#2 = c.p1 := rfl
@[simp] theorem Cells.get_two (c : Cells) : c.get 2#2 = c.p2 := rfl
@[simp] theorem Cells.get_three (c : Cells) : c.get 3#2 = c.p3 := rfl
@[simp] theorem Cells.set_zero (c : Cells) (v : Byte) : c.set 0#2 v = ⟨v, c.p1, c.p2, c.p3⟩ := rfl
@[simp] theorem Cells.set_one (c : Cells) (v : Byte) : c.set 1#2 v = ⟨c.p0, v, c.p2, c.p3⟩ := rfl
@[simp] theorem Cells.set_two (c : Cells) (v : Byte) : c.set 2#2 v = ⟨c.p0, c.p1, v, c.p3⟩ := rfl
@[simp] theorem Cells.set_three (c : Cells) (v : Byte) : c.set 3#2 v = ⟨c.p0, c.p1, c.p2, v⟩ := rfl

end Sys2Proof

namespace Sys2Proof.Machine

@[simp] theorem emitL_lvl (e : Event) (s : State) : (emitL e s).lvl = s.lvl := rfl
@[simp] theorem emitL_dir (e : Event) (s : State) : (emitL e s).dir = s.dir := rfl
@[simp] theorem emitL_clkPin (e : Event) (s : State) : (emitL e s).clkPin = s.clkPin := rfl
@[simp] theorem emitL_dioPin (e : Event) (s : State) : (emitL e s).dioPin = s.dioPin := rfl
@[simp] theorem emitL_fstate (e : Event) (s : State) : (emitL e s).fstate = s.fstate := rfl
@[simp] theorem emitL_shreg (e : Event) (s : State) : (emitL e s).shreg = s.shreg := rfl
@[simp] theorem emitL_bitcnt (e : Event) (s : State) : (emitL e s).bitcnt = s.bitcnt := rfl
@[simp] theorem emitL_busy (e : Event) (s : State) : (emitL e s).busy = s.busy := rfl
@[simp] theorem emitL_useq (e : Event) (s : State) : (emitL e s).useq = s.useq := rfl
@[simp] theorem emitL_ackQ (e : Event) (s : State) : (emitL e s).ackQ = s.ackQ := rfl
@[simp] theorem emitL_buf (e : Event) (s : State) : (emitL e s).buf = s.buf := rfl
@[simp] theorem emitL_brightness (e : Event) (s : State) : (emitL e s).brightness = s.brightness := rfl
@[simp] theorem emitL_enabled (e : Event) (s : State) : (emitL e s).enabled = s.enabled := rfl
@[simp] theorem emitL_colon (e : Event) (s : State) : (emitL e s).colon = s.colon := rfl
@[simp] theorem emitL_viol (e : Event) (s : State) : (emitL e s).viol = s.viol := rfl
@[simp] theorem emitL_reasons (e : Event) (s : State) : (emitL e s).reasons = s.reasons := rfl
@[simp] theorem emitL_inited (e : Event) (s : State) : (emitL e s).inited = s.inited := rfl
@[simp] theorem emitL_ltrace (e : Event) (s : State) : (emitL e s).ltrace = s.ltrace ++ [e] := rfl
@[simp] theorem emitL_wtrace (e : Event) (s : State) : (emitL e s).wtrace = s.wtrace := rfl
@[simp] theorem emitL_res (e : Event) (s : State) : (emitL e s).res = s.res := rfl
@[simp] theorem emitL_prog (e : Event) (s : State) : (emitL e s).prog = s.prog := rfl
@[simp] theorem emitL_sample (e : Event) (s : State) : (emitL e s).sample = s.sample := rfl
@[simp] theorem emitL_pending (e : Event) (s : State) : (emitL e s).pending = s.pending := rfl
@[simp] theorem emitL_oracle (e : Event) (s : State) : (emitL e s).oracle = s.oracle := rfl
@[simp] theorem emitL_reads (e : Event) (s : State) : (emitL e s).reads = s.reads := rfl
@[simp] theorem emitL_starts (e : Event) (s : State) : (emitL e s).starts = s.starts := rfl
@[simp] theorem emitL_cfg (e : Event) (s : State) : (emitL e s).cfg = s.cfg := rfl

@[simp] theorem emitW_lvl (x : Sym) (s : State) : (emitW x s).lvl = s.lvl := rfl
@[simp] theorem emitW_dir (x : Sym) (s : State) : (emitW x s).dir = s.dir := rfl
@[simp] theorem emitW_clkPin (x : Sym) (s : State) : (emitW x s).clkPin = s.clkPin := rfl
@[simp] theorem emitW_dioPin (x : Sym) (s : State) : (emitW x s).dioPin = s.dioPin := rfl
@[simp] theorem emitW_fstate (x : Sym) (s : State) : (emitW x s).fstate = s.fstate := rfl
@[simp] theorem emitW_shreg (x : Sym) (s : State) : (emitW x s).shreg = s.shreg := rfl
@[simp] theorem emitW_bitcnt (x : Sym) (s : State) : (emitW x s).bitcnt = s.bitcnt := rfl
@[simp] theorem emitW_busy (x : Sym) (s : State) : (emitW x s).busy = s.busy := rfl
@[simp] theorem emitW_useq (x : Sym) (s : State) : (emitW x s).useq = s.useq := rfl
@[simp] theorem emitW_ackQ (x : Sym) (s : State) : (emitW x s).ackQ = s.ackQ := rfl
@[simp] theorem emitW_buf (x : Sym) (s : State) : (emitW x s).buf = s.buf := rfl
@[simp] theorem emitW_brightness (x : Sym) (s : State) : (emitW x s).brightness = s.brightness := rfl
@[simp] theorem emitW_enabled (x : Sym) (s : State) : (emitW x s).enabled = s.enabled := rfl
@[simp] theorem emitW_colon (x : Sym) (s : State) : (emitW x s).colon = s.colon := rfl
@[simp] theorem emitW_viol (x : Sym) (s : State) : (emitW x s).viol = s.viol := rfl
@[simp] theorem emitW_reasons (x : Sym) (s : State) : (emitW x s).reasons = s.reasons := rfl
@[simp] theorem emitW_inited (x : Sym) (s : State) : (emitW x s).inited = s.inited := rfl
@[simp] theorem emitW_ltrace (x : Sym) (s : State) : (emitW x s).ltrace = s.ltrace := rfl
@[simp] theorem emitW_wtrace (x : Sym) (s : State) : (emitW x s).wtrace = s.wtrace ++ [x] := rfl
@[simp] theorem emitW_res (x : Sym) (s : State) : (emitW x s).res = s.res := rfl
@[simp] theorem emitW_prog (x : Sym) (s : State) : (emitW x s).prog = s.prog := rfl
@[simp] theorem emitW_sample (x : Sym) (s : State) : (emitW x s).sample = s.sample := rfl
@[simp] theorem emitW_pending (x : Sym) (s : State) : (emitW x s).pending = s.pending := rfl
@[simp] theorem emitW_oracle (x : Sym) (s : State) : (emitW x s).oracle = s.oracle := rfl
@[simp] theorem emitW_reads (x : Sym) (s : State) : (emitW x s).reads = s.reads := rfl
@[simp] theorem emitW_starts (x : Sym) (s : State) : (emitW x s).starts = s.starts := rfl
@[simp] theorem emitW_cfg (x : Sym) (s : State) : (emitW x s).cfg = s.cfg := rfl

@[simp] theorem advance_lvl (s : State) : (advance s).lvl = s.lvl := rfl
@[simp] theorem advance_dir (s : State) : (advance s).dir = s.dir := rfl
@[simp] theorem advance_clkPin (s : State) : (advance s).clkPin = s.clkPin := rfl
@[simp] theorem advance_dioPin (s : State) : (advance s).dioPin = s.dioPin := rfl
@[simp] theorem advance_fstate (s : State) : (advance s).fstate = s.fstate := rfl
@[simp] theorem advance_shreg (s : State) : (advance s).shreg = s.shreg := rfl
@[simp] theorem advance_bitcnt (s : State) : (advance s).bitcnt = s.bitcnt := rfl
@[simp] theorem advance_busy (s : State) : (advance s).busy = s.busy := rfl
@[simp] theorem advance_useq (s : State) : (advance s).useq = s.useq.map (· + 1) := rfl
@[simp] theorem advance_ackQ (s : State) : (advance s).ackQ = s.ackQ := rfl
@[simp] theorem advance_buf (s : State) : (advance s).buf = s.buf := rfl
@[simp] theorem advance_brightness (s : State) : (advance s).brightness = s.brightness := rfl
@[simp] theorem advance_enabled (s : State) : (advance s).enabled = s.enabled := rfl
@[simp] theorem advance_colon (s : State) : (advance s).colon = s.colon := rfl
@[simp] theorem advance_viol (s : State) : (advance s).viol = s.viol := rfl
@[simp] theorem advance_reasons (s : State) : (advance s).reasons = s.reasons := rfl
@[simp] theorem advance_inited (s : State) : (advance s).inited = s.inited := rfl
@[simp] theorem advance_ltrace (s : State) : (advance s).ltrace = s.ltrace := rfl
@[simp] theorem advance_wtrace (s : State) : (advance s).wtrace = s.wtrace := rfl
@[simp] theorem advance_res (s : State) : (advance s).res = s.res := rfl
@[simp] theorem advance_prog (s : State) : (advance s).prog = s.prog := rfl
@[simp] theorem advance_sample (s : State) : (advance s).sample = s.sample := rfl
@[simp] theorem advance_pending (s : State) : (advance s).pending = s.pending := rfl
@[simp] theorem advance_oracle (s : State) : (advance s).oracle = s.oracle := rfl
@[simp] theorem advance_reads (s : State) : (advance s).reads = s.reads := rfl
@[simp] theorem advance_starts (s : State) : (advance s).starts = s.starts := rfl
@[simp] theorem advance_cfg (s : State) : (advance s).cfg = s.cfg := rfl

@[simp] theorem accept_lvl (s : State) : (accept s).lvl = s.lvl := rfl
@[simp] theorem accept_dir (s : State) : (accept s).dir = s.dir := rfl
@[simp] theorem accept_clkPin (s : State) : (accept s).clkPin = s.clkPin := rfl
@[simp] theorem accept_dioPin (s : State) : (accept s).dioPin = s.dioPin := rfl
@[simp] theorem accept_fstate (s : State) : (accept s).fstate = s.fstate := rfl
@[simp] theorem accept_shreg (s : State) : (accept s).shreg = s.shreg := rfl
@[simp] theorem accept_bitcnt (s : State) : (accept s).bitcnt = s.bitcnt := rfl
@[simp] theorem accept_busy (s : State) : (accept s).busy = true := rfl
@[simp] theorem accept_useq (s : State) : (accept s).useq = some 0 := rfl
@[simp] theorem accept_ackQ (s : State) : (accept s).ackQ = s.ackQ := rfl
@[simp] theorem accept_buf (s : State) : (accept s).buf = s.buf := rfl
@[simp] theorem accept_brightness (s : State) : (accept s).brightness = s.brightness := rfl
@[simp] theorem accept_enabled (s : State) : (accept s).enabled = s.enabled := rfl
@[simp] theorem accept_colon (s : State) : (accept s).colon = s.colon := rfl
@[simp] theorem accept_viol (s : State) : (accept s).viol = s.viol := rfl
@[simp] theorem accept_reasons (s : State) : (accept s).reasons = s.reasons := rfl
@[simp] theorem accept_inited (s : State) : (accept s).inited = s.inited := rfl
@[simp] theorem accept_ltrace (s : State) : (accept s).ltrace = s.ltrace := rfl
@[simp] theorem accept_wtrace (s : State) : (accept s).wtrace = s.wtrace := rfl
@[simp] theorem accept_res (s : State) : (accept s).res = s.res := rfl
@[simp] theorem accept_prog (s : State) : (accept s).prog = s.prog := rfl
@[simp] theorem accept_sample (s : State) : (accept s).sample = s.sample := rfl
@[simp] theorem accept_pending (s : State) : (accept s).pending = s.pending := rfl
@[simp] theorem accept_oracle (s : State) : (accept s).oracle = s.oracle := rfl
@[simp] theorem accept_reads (s : State) : (accept s).reads = s.reads := rfl
@[simp] theorem accept_starts (s : State) : (accept s).starts = s.starts := rfl
@[simp] theorem accept_cfg (s : State) : (accept s).cfg = s.cfg := rfl

@[simp] theorem complete_lvl (s : State) : (complete s).lvl = s.lvl := rfl
@[simp] theorem complete_dir (s : State) : (complete s).dir = s.dir := rfl
@[simp] theorem complete_clkPin (s : State) : (complete s).clkPin = s.clkPin := rfl
@[simp] theorem complete_dioPin (s : State) : (complete s).dioPin = s.dioPin := rfl
@[simp] theorem complete_fstate (s : State) : (complete s).fstate = s.fstate := rfl
@[simp] theorem complete_shreg (s : State) : (complete s).shreg = s.shreg := rfl
@[simp] theorem complete_bitcnt (s : State) : (complete s).bitcnt = s.bitcnt := rfl
@[simp] theorem complete_busy (s : State) : (complete s).busy = false := rfl
@[simp] theorem complete_useq (s : State) : (complete s).useq = none := rfl
@[simp] theorem complete_ackQ (s : State) : (complete s).ackQ = s.ackQ := rfl
@[simp] theorem complete_buf (s : State) : (complete s).buf = s.buf := rfl
@[simp] theorem complete_brightness (s : State) : (complete s).brightness = s.brightness := rfl
@[simp] theorem complete_enabled (s : State) : (complete s).enabled = s.enabled := rfl
@[simp] theorem complete_colon (s : State) : (complete s).colon = s.colon := rfl
@[simp] theorem complete_viol (s : State) : (complete s).viol = s.viol := rfl
@[simp] theorem complete_reasons (s : State) : (complete s).reasons = s.reasons := rfl
@[simp] theorem complete_inited (s : State) : (complete s).inited = s.inited := rfl
@[simp] theorem complete_ltrace (s : State) : (complete s).ltrace = s.ltrace := rfl
@[simp] theorem complete_wtrace (s : State) : (complete s).wtrace = s.wtrace := rfl
@[simp] theorem complete_res (s : State) : (complete s).res = s.res := rfl
@[simp] theorem complete_prog (s : State) : (complete s).prog = s.prog := rfl
@[simp] theorem complete_sample (s : State) : (complete s).sample = s.sample := rfl
@[simp] theorem complete_pending (s : State) : (complete s).pending = s.pending := rfl
@[simp] theorem complete_oracle (s : State) : (complete s).oracle = s.oracle := rfl
@[simp] theorem complete_reads (s : State) : (complete s).reads = s.reads := rfl
@[simp] theorem complete_starts (s : State) : (complete s).starts = s.starts := rfl
@[simp] theorem complete_cfg (s : State) : (complete s).cfg = s.cfg := rfl

@[simp] theorem violation_lvl (r : Reason) (s : State) : (violation r s).lvl = s.lvl := rfl
@[simp] theorem violation_dir (r : Reason) (s : State) : (violation r s).dir = s.dir := rfl
@[simp] theorem violation_clkPin (r : Reason) (s : State) : (violation r s).clkPin = s.clkPin := rfl
@[simp] theorem violation_dioPin (r : Reason) (s : State) : (violation r s).dioPin = s.dioPin := rfl
@[simp] theorem violation_fstate (r : Reason) (s : State) : (violation r s).fstate = s.fstate := rfl
@[simp] theorem violation_shreg (r : Reason) (s : State) : (violation r s).shreg = s.shreg := rfl
@[simp] theorem violation_bitcnt (r : Reason) (s : State) : (violation r s).bitcnt = s.bitcnt := rfl
@[simp] theorem violation_busy (r : Reason) (s : State) : (violation r s).busy = s.busy := rfl
@[simp] theorem violation_useq (r : Reason) (s : State) : (violation r s).useq = s.useq := rfl
@[simp] theorem violation_ackQ (r : Reason) (s : State) : (violation r s).ackQ = s.ackQ := rfl
@[simp] theorem violation_buf (r : Reason) (s : State) : (violation r s).buf = s.buf := rfl
@[simp] theorem violation_brightness (r : Reason) (s : State) : (violation r s).brightness = s.brightness := rfl
@[simp] theorem violation_enabled (r : Reason) (s : State) : (violation r s).enabled = s.enabled := rfl
@[simp] theorem violation_colon (r : Reason) (s : State) : (violation r s).colon = s.colon := rfl
@[simp] theorem violation_viol (r : Reason) (s : State) : (violation r s).viol = true := rfl
@[simp] theorem violation_reasons (r : Reason) (s : State) : (violation r s).reasons = if r ∈ s.reasons then s.reasons else s.reasons ++ [r] := rfl
@[simp] theorem violation_inited (r : Reason) (s : State) : (violation r s).inited = s.inited := rfl
@[simp] theorem violation_ltrace (r : Reason) (s : State) : (violation r s).ltrace = s.ltrace := rfl
@[simp] theorem violation_wtrace (r : Reason) (s : State) : (violation r s).wtrace = s.wtrace := rfl
@[simp] theorem violation_res (r : Reason) (s : State) : (violation r s).res = s.res := rfl
@[simp] theorem violation_prog (r : Reason) (s : State) : (violation r s).prog = s.prog := rfl
@[simp] theorem violation_sample (r : Reason) (s : State) : (violation r s).sample = s.sample := rfl
@[simp] theorem violation_pending (r : Reason) (s : State) : (violation r s).pending = s.pending := rfl
@[simp] theorem violation_oracle (r : Reason) (s : State) : (violation r s).oracle = s.oracle := rfl
@[simp] theorem violation_reads (r : Reason) (s : State) : (violation r s).reads = s.reads := rfl
@[simp] theorem violation_starts (r : Reason) (s : State) : (violation r s).starts = s.starts := rfl
@[simp] theorem violation_cfg (r : Reason) (s : State) : (violation r s).cfg = s.cfg := rfl

@[simp] theorem violateIf_lvl (c : Bool) (r : Reason) (s : State) : (violateIf c r s).lvl = s.lvl := by
  cases c <;> simp [violateIf]
@[simp] theorem violateIf_dir (c : Bool) (r : Reason) (s : State) : (violateIf c r s).dir = s.dir := by
  cases c <;> simp [violateIf]
@[simp] theorem violateIf_clkPin (c : Bool) (r : Reason) (s : State) : (violateIf c r s).clkPin = s.clkPin := by
  cases c <;> simp [violateIf]
@[simp] theorem violateIf_dioPin (c : Bool) (r : Reason) (s : State) : (violateIf c r s).dioPin = s.dioPin := by
  cases c <;> simp [violateIf]
@[simp] theorem violateIf_fstate (c : Bool) (r : Reason) (s : State) : (violateIf c r s).fstate = s.fstate := by
  cases c <;> simp [violateIf]
@[simp] theorem violateIf_shreg (c : Bool) (r : Reason) (s : State) : (violateIf c r s).shreg = s.shreg := by
  cases c <;> simp [violateIf]
@[simp] theorem violateIf_bitcnt (c : Bool) (r : Reason) (s : State) : (violateIf c r s).bitcnt = s.bitcnt := by
  cases c <;> simp [violateIf]
@[simp] theorem violateIf_busy (c : Bool) (r : Reason) (s : State) : (violateIf c r s).busy = s.busy := by
  cases c <;> simp [violateIf]
@[simp] theorem violateIf_useq (c : Bool) (r : Reason) (s : State) : (violateIf c r s).useq = s.useq := by
  cases c <;> simp [violateIf]
@[simp] theorem violateIf_ackQ (c : Bool) (r : Reason) (s : State) : (violateIf c r s).ackQ = s.ackQ := by
  cases c <;> simp [violateIf]
@[simp] theorem violateIf_buf (c : Bool) (r : Reason) (s : State) : (violateIf c r s).buf = s.buf := by
  cases c <;> simp [violateIf]
@[simp] theorem violateIf_brightness (c : Bool) (r : Reason) (s : State) : (violateIf c r s).brightness = s.brightness := by
  cases c <;> simp [violateIf]
@[simp] theorem violateIf_enabled (c : Bool) (r : Reason) (s : State) : (violateIf c r s).enabled = s.enabled := by
  cases c <;> simp [violateIf]
@[simp] theorem violateIf_colon (c : Bool) (r : Reason) (s : State) : (violateIf c r s).colon = s.colon := by
  cases c <;> simp [violateIf]
@[simp] theorem violateIf_viol (c : Bool) (r : Reason) (s : State) : (violateIf c r s).viol = (c || s.viol) := by
  cases c <;> simp [violateIf]
@[simp] theorem violateIf_reasons (c : Bool) (r : Reason) (s : State) : (violateIf c r s).reasons = if c = true ∧ r ∉ s.reasons then s.reasons ++ [r] else s.reasons := by
  cases c <;> simp [violateIf]
@[simp] theorem violateIf_inited (c : Bool) (r : Reason) (s : State) : (violateIf c r s).inited = s.inited := by
  cases c <;> simp [violateIf]
@[simp] theorem violateIf_ltrace (c : Bool) (r : Reason) (s : State) : (violateIf c r s).ltrace = s.ltrace := by
  cases c <;> simp [violateIf]
@[simp] theorem violateIf_wtrace (c : Bool) (r : Reason) (s : State) : (violateIf c r s).wtrace = s.wtrace := by
  cases c <;> simp [violateIf]
@[simp] theorem violateIf_res (c : Bool) (r : Reason) (s : State) : (violateIf c r s).res = s.res := by
  cases c <;> simp [violateIf]
@[simp] theorem violateIf_prog (c : Bool) (r : Reason) (s : State) : (violateIf c r s).prog = s.prog := by
  cases c <;> simp [violateIf]
@[simp] theorem violateIf_sample (c : Bool) (r : Reason) (s : State) : (violateIf c r s).sample = s.sample := by
  cases c <;> simp [violateIf]
@[simp] theorem violateIf_pending (c : Bool) (r : Reason) (s : State) : (violateIf c r s).pending = s.pending := by
  cases c <;> simp [violateIf]
@[simp] theorem violateIf_oracle (c : Bool) (r : Reason) (s : State) : (violateIf c r s).oracle = s.oracle := by
  cases c <;> simp [violateIf]
@[simp] theorem violateIf_reads (c : Bool) (r : Reason) (s : State) : (violateIf c r s).reads = s.reads := by
  cases c <;> simp [violateIf]
@[simp] theorem violateIf_starts (c : Bool) (r : Reason) (s : State) : (violateIf c r s).starts = s.starts := by
  cases c <;> simp [violateIf]
@[simp] theorem violateIf_cfg (c : Bool) (r : Reason) (s : State) : (violateIf c r s).cfg = s.cfg := by
  cases c <;> simp [violateIf]

/-- The reasons recorded after a check: the old ones, and the check's own when its condition holds. -/
theorem mem_violateIf_reasons (c : Bool) (q r : Reason) (s : State) :
    r ∈ (violateIf c q s).reasons ↔ r ∈ s.reasons ∨ (c = true ∧ r = q) := by
  cases c <;> simp [violateIf, violation]
  split_ifs <;> simp_all

theorem mem_violation_reasons (q r : Reason) (s : State) :
    r ∈ (violation q s).reasons ↔ r ∈ s.reasons ∨ r = q := by
  simpa only [violateIf, if_true, true_and] using mem_violateIf_reasons true q r s

/-- The lines after a drive. -/
@[simp] theorem drive_lvl (l : Line) (b : Bit) (s : State) : (drive l b s).lvl = s.lvl.set l b := rfl
@[simp] theorem drive_ltrace (l : Line) (b : Bit) (s : State) : (drive l b s).ltrace = s.ltrace ++ [.drv l b] := rfl

/-- The lines after a change of direction. -/
@[simp] theorem direct_dir (l : Line) (d : Dir) (s : State) : (direct l d s).dir = s.dir.set l d := rfl
@[simp] theorem direct_ltrace (l : Line) (d : Dir) (s : State) : (direct l d s).ltrace = s.ltrace ++ [.dir l d] := rfl

end Sys2Proof.Machine
end

