-- ==== Sys2Proof/Laws/Ops.lean ====
section
/-! SUPPORT. Micro-operations and scripts: how lists run, and that a script ends where its own list leads (R8). -/

namespace Sys2Proof.Machine

@[simp] theorem runAll_nil (s : State) : runAll [] s = s := (rfl)
@[simp] theorem runAll_cons (u : Uop) (us : List Uop) (s : State) : runAll (u :: us) s = runAll us (run u s) := (rfl)

theorem runAll_append (us vs : List Uop) (s : State) : runAll (us ++ vs) s = runAll vs (runAll us s) := by
  induction us generalizing s with
  | nil => rfl
  | cons u us ih => exact ih (run u s)

@[simp] theorem perform_snd (us : List Uop) (s : State) : (perform us s).2 = runAll us s := (rfl)
@[simp] theorem andThen_snd (f g : Script) (s : State) : (andThen f g s).2 = (g (f s).2).2 := (rfl)
@[simp] theorem inOrder_nil_snd (s : State) : (inOrder [] s).2 = s := (rfl)
@[simp] theorem inOrder_cons_snd (f : Script) (fs : List Script) (s : State) :
    (inOrder (f :: fs) s).2 = (inOrder fs (f s).2).2 := (rfl)
@[simp] theorem reading_apply (k : State → Script) (s : State) : reading k s = k s s := (rfl)
@[simp] theorem nothing_snd (s : State) : (nothing s).2 = s := (rfl)

/-- What every micro-operation keeps: a recorded violation, both traces' past, the host's words, `prog` and the
parameters. -/
structure Grows (s t : State) : Prop where
  viol : s.viol = true → t.viol = true
  reasons : ∀ r ∈ s.reasons, r ∈ t.reasons
  ltrace : s.ltrace <+: t.ltrace
  wtrace : s.wtrace <+: t.wtrace
  pending : t.pending = s.pending
  prog : t.prog = s.prog
  cfg : t.cfg = s.cfg
  oracle : t.oracle = s.oracle

theorem Grows.same (s : State) : Grows s s :=
  ⟨id, fun _ h => h, List.prefix_rfl, List.prefix_rfl, rfl, rfl, rfl, rfl⟩

theorem Grows.trans {s t u : State} (h : Grows s t) (g : Grows t u) : Grows s u :=
  ⟨g.viol ∘ h.viol, fun r hr => g.reasons r (h.reasons r hr), h.ltrace.trans g.ltrace, h.wtrace.trans g.wtrace,
    g.pending.trans h.pending, g.prog.trans h.prog, g.cfg.trans h.cfg, g.oracle.trans h.oracle⟩

theorem grows_run (u : Uop) (s : State) : Grows s (run u s) := by
  cases u <;> constructor <;>
    simp [run, drive, direct, sampleLine, checkInit, checkNoFrame, checkFrame, checkPins, latchAck,
      mem_violateIf_reasons, mem_violation_reasons, -violateIf_reasons, -violation_reasons] <;>
    intros <;> first | exact .inl ‹_› | exact .inr ‹_›

theorem grows_runAll (us : List Uop) (s : State) : Grows s (runAll us s) := by
  induction us generalizing s with
  | nil => exact Grows.same s
  | cons u us ih => exact (grows_run u s).trans (ih _)

/-- A script whose end state is where its own list of micro-operations leads. -/
def Follows (f : Script) : Prop := ∀ s, (f s).2 = runAll (f s).1 s

theorem follows_perform (us : List Uop) : Follows (perform us) := fun _ => rfl

theorem follows_nothing : Follows nothing := fun _ => rfl

theorem follows_andThen {f g : Script} (hf : Follows f) (hg : Follows g) : Follows (andThen f g) := by
  intro s
  simp only [andThen, runAll_append, ← hf s]
  exact hg _

theorem follows_inOrder {fs : List Script} (h : ∀ f ∈ fs, Follows f) : Follows (inOrder fs) := by
  induction fs with
  | nil => exact follows_nothing
  | cons f fs ih =>
    exact follows_andThen (h f (List.mem_cons_self ..)) (ih fun g hg => h g (List.mem_cons_of_mem _ hg))

theorem follows_reading {k : State → Script} (h : ∀ s, Follows (k s)) : Follows (reading k) := fun s => h s s

theorem follows_startFrame : Follows startFrame := follows_reading fun _ => follows_perform _

theorem follows_sendByte (v : Byte) : Follows (sendByte v) := follows_reading fun _ => follows_perform _

theorem follows_stopFrame : Follows stopFrame := follows_perform _

theorem follows_sendCommand (v : Byte) : Follows (sendCommand v) :=
  follows_inOrder (by simp [follows_startFrame, follows_sendByte, follows_stopFrame])

theorem follows_controlRefresh : Follows controlRefresh := follows_reading fun s => follows_sendCommand s.ctrl

theorem follows_dataWrite (p : Pos) (v : Byte) : Follows (dataWrite p v) :=
  follows_inOrder
    (by simp [follows_startFrame, follows_sendByte, follows_stopFrame, follows_sendCommand, follows_perform])

theorem follows_writeSegment (pos raw : Byte) : Follows (writeSegment pos raw) := by
  refine follows_inOrder ?_
  simp only [List.mem_cons, List.not_mem_nil, or_false, forall_eq_or_imp, forall_eq]
  refine ⟨follows_reading fun s => ?_, follows_controlRefresh⟩
  split
  · exact follows_dataWrite _ _
  · exact follows_nothing

theorem follows_overlay (f : Bool) : Follows (overlay f) := by
  refine follows_inOrder ?_
  simp only [List.mem_cons, List.not_mem_nil, or_false, forall_eq_or_imp, forall_eq]
  exact ⟨follows_perform _, follows_reading fun _ => follows_dataWrite _ _, follows_controlRefresh⟩

theorem follows_clearDisplay : Follows clearDisplay :=
  follows_inOrder (by simp [follows_overlay, follows_writeSegment])

theorem follows_hostOp {f : Script} (h : Follows f) : Follows (hostOp f) :=
  follows_inOrder (by simp [follows_perform, h])

theorem follows_wrByteScript (v : Byte) : Follows (wrByteScript v) :=
  follows_inOrder (by simp [follows_perform, follows_sendByte])

/-- R8: every operation's end state is where its flattened list leads. -/
theorem follows_scriptOf (i : Instr) : Follows (scriptOf i) := by
  cases i with
  | drvh l => exact follows_perform _
  | drvl l => exact follows_perform _
  | setDir l d => exact follows_perform _
  | read l => exact follows_perform _
  | start => exact follows_hostOp follows_startFrame
  | wrByte v => exact follows_wrByteScript v
  | stop => exact follows_hostOp follows_stopFrame
  | command v => exact follows_hostOp (follows_sendCommand v)
  | wrSeg p r => exact follows_hostOp (follows_writeSegment p r)
  | setColon f => exact follows_hostOp (follows_overlay f)
  | setBrt v =>
    exact follows_hostOp (follows_inOrder (by simp [follows_perform, follows_controlRefresh]))
  | setEn f =>
    exact follows_hostOp (follows_inOrder (by simp [follows_perform, follows_controlRefresh]))
  | clear => exact follows_hostOp follows_clearDisplay
  | init c d => exact follows_inOrder (by simp [follows_perform, follows_clearDisplay])
  | dispDigit p d => exact follows_hostOp (follows_reading fun _ => follows_writeSegment _ _)
  | dig2Seg d => exact fun _ => rfl
  | chr2Seg c => exact fun _ => rfl
  | wireDataCmd f => exact follows_wrByteScript _
  | wireAddrCmd p => exact follows_wrByteScript _
  | wireCtrlCmd e b => exact follows_wrByteScript _
  | wireSegByte c g => exact follows_wrByteScript _

/-- Every arm of `exec` runs the operation's script to completion. -/
theorem exec_eq_operate (i : Instr) (s : State) : exec i s = .next (operate (scriptOf i) s) := by
  cases i <;> rfl

end Sys2Proof.Machine
end

