-- ==== Sys2Proof/Laws/Frame.lean ====
section
/-! SUPPORT. The whole effect of START, of a byte with its ACK slot, of STOP and of COMMAND, each said once: the
waveform, the frame state, the ghost check (41_frame_protocol.md R143, R144 to R147, R149, R150). -/

namespace Sys2Proof.Machine

/-- R143: all that START does. -/
theorem startFrame_state (s : State) :
    (startFrame s).2 =
      { checkNoFrame s with
        lvl := ⟨true, false⟩, fstate := .framed, useq := s.useq.map (· + 4)
        ltrace := s.ltrace ++ startWave (dioFirst s), wtrace := s.wtrace ++ [.start], starts := s.starts + 1 } := by
  cases hd : dioFirst s <;> by_cases h : s.fstate = .idle <;>
    simp [startFrame, raises, run, advance, drive, emitL, emitW, startWave, checkNoFrame, violateIf, violation, h, hd,
      Function.comp_def]

/-- R145: one turn of the bit loop. -/
theorem runAll_bitUops (us : List Uop) (s : State) :
    runAll (bitUops ++ us) s =
      runAll us
        { s with
          lvl := ⟨true, s.shreg.getLsbD 0⟩, shreg := s.shreg >>> 1, bitcnt := s.bitcnt + 1#4
          useq := s.useq.map (· + 5), ltrace := s.ltrace ++ bitWave (s.shreg.getLsbD 0) } := by
  simp [bitUops, run, advance, drive, emitL, bitWave, Function.comp_def]

/-- R144 to R147: all that sending a byte does. -/
theorem sendByte_state (v : Byte) (s : State) :
    (sendByte v s).2 =
      { checkFrame .byteOutsideFrame s with
        lvl := ⟨false, v[7]⟩, dir := ⟨s.dir.clk, .output⟩
        fstate := if s.fstate = .idle then .idle else .framed
        shreg := 0x00#8, bitcnt := 0#4, useq := s.useq.map (· + 49)
        ackQ := s.answer 0, sample := s.answer 0, reads := s.reads + 1
        ltrace := s.ltrace ++ byteWave v (s.answer 0)
        wtrace := s.wtrace ++ [.byte v (s.answer 0)] } := by
  have hz : v >>> 8 = 0#8 := BitVec.ushiftRight_eq_zero (by decide)
  by_cases h : s.fstate = .idle <;>
    simp [sendByte, bitLoop, List.append_assoc, runAll_bitUops, ackSlot, run, advance, drive, direct, sampleLine, emitL, emitW,
      checkFrame, violateIf, violation, latchAck, State.answer, h, hz, byteWave, bitsWave, ackWave, Function.comp_def,
      BitVec.getLsbD_eq_getElem]

/-- R149: all that STOP does. -/
theorem stopFrame_state (s : State) :
    (stopFrame s).2 =
      { checkFrame .stopOutsideFrame s with
        lvl := ⟨true, true⟩, fstate := .idle, useq := s.useq.map (· + 7)
        ltrace := s.ltrace ++ stopWave, wtrace := s.wtrace ++ [.stop] } := by
  by_cases h : s.fstate = .idle <;>
    simp [stopFrame, run, advance, drive, emitL, emitW, stopWave, checkFrame, violateIf, violation, h, Function.comp_def]

/-- R150: all that COMMAND does. -/
theorem sendCommand_state (v : Byte) (s : State) :
    (sendCommand v s).2 =
      { checkNoFrame s with
        lvl := ⟨true, true⟩, dir := ⟨s.dir.clk, .output⟩, fstate := .idle
        shreg := 0x00#8, bitcnt := 0#4, useq := s.useq.map (· + 60)
        ackQ := s.answer 0, sample := s.answer 0, reads := s.reads + 1, starts := s.starts + 1
        ltrace := s.ltrace ++ commandWave (dioFirst s) v (s.answer 0)
        wtrace := s.wtrace ++ oneByteFrame v (s.answer 0) } := by
  simp only [sendCommand, inOrder_cons_snd, inOrder_nil_snd, startFrame_state, sendByte_state, stopFrame_state]
  by_cases h : s.fstate = .idle <;>
    simp [checkNoFrame, checkFrame, violateIf, violation, h, State.answer, commandWave, oneByteFrame, Function.comp_def]

/-- R144: the shared rule of a byte presented as an operation, its check and its result included. -/
theorem operate_wrByteScript (v : Byte) (s : State) :
    operate (wrByteScript v) s =
      { checkFrame .byteOutsideFrame (checkInit s) with
        lvl := ⟨false, v[7]⟩, dir := ⟨s.dir.clk, .output⟩
        fstate := if s.fstate = .idle then .idle else .framed
        shreg := 0x00#8, bitcnt := 0#4, busy := false, useq := none
        ackQ := s.answer 0, sample := s.answer 0, reads := s.reads + 1
        ltrace := s.ltrace ++ byteWave v (s.answer 0)
        wtrace := s.wtrace ++ [.byte v (s.answer 0)]
        res := byteOfBit (s.answer 0) } := by
  have ha : (checkInit (accept s)).answer 0 = s.answer 0 := by simp [State.answer, checkInit]
  simp only [operate, wrByteScript, inOrder_cons_snd, inOrder_nil_snd, perform_snd, runAll_cons, runAll_nil,
    sendByte_state, run, ha]
  cases h : s.inited <;> by_cases hf : s.fstate = .idle <;>
    simp [checkFrame, checkInit, violateIf, violation, accept, complete, h, hf]

end Sys2Proof.Machine
end

