-- ==== Sys2Proof/Laws/Display.lean ====
section
/-! SUPPORT. The whole effect of the compound operations, said once over the traffic they send (42_display_state.md
R172 to R186): every one of them leaves `sent s tr` with its own registers written. -/

namespace Sys2Proof.Machine

/-- The micro-steps of some traffic (R187). -/
def trafficMicro (tr : List Traffic) : Nat := (tr.map fun x => match x with | .single _ => 60 | .dataWrite _ _ => 169).sum

/-- What sending some traffic leaves inside an operation. -/
def sent (s : State) (tr : List Traffic) : State :=
  match tr with
  | [] => s
  | x :: rest =>
    { checkNoFrame s with
      lvl := ⟨true, true⟩, dir := ⟨s.dir.clk, .output⟩, fstate := .idle
      shreg := 0x00#8, bitcnt := 0#4, useq := s.useq.map (· + trafficMicro (x :: rest))
      ackQ := s.answer (trafficBytes (x :: rest) - 1), sample := s.answer (trafficBytes (x :: rest) - 1)
      reads := s.reads + trafficBytes (x :: rest), starts := s.starts + trafficFrames (x :: rest)
      ltrace := s.ltrace ++ trafficEvents s 0 0 (x :: rest), wtrace := s.wtrace ++ trafficSyms s 0 (x :: rest) }

theorem trafficBytes_append (a b : List Traffic) : trafficBytes (a ++ b) = trafficBytes a + trafficBytes b := by
  simp [trafficBytes]

theorem trafficFrames_append (a b : List Traffic) : trafficFrames (a ++ b) = trafficFrames a + trafficFrames b := by
  simp [trafficFrames]

theorem trafficMicro_append (a b : List Traffic) : trafficMicro (a ++ b) = trafficMicro a + trafficMicro b := by
  simp [trafficMicro]

theorem trafficSyms_append (s : State) (k : Nat) (a b : List Traffic) :
    trafficSyms s k (a ++ b) = trafficSyms s k a ++ trafficSyms s (k + trafficBytes a) b := by
  induction a generalizing k with
  | nil => simp [trafficSyms, trafficBytes]
  | cons x a ih =>
    cases x <;> simp [trafficSyms, trafficBytes, Traffic.bytes, ih, Nat.add_assoc]

theorem trafficEvents_append (s : State) (k j : Nat) (a b : List Traffic) :
    trafficEvents s k j (a ++ b) =
      trafficEvents s k j a ++ trafficEvents s (k + trafficBytes a) (j + trafficFrames a) b := by
  induction a generalizing k j with
  | nil => simp [trafficEvents, trafficBytes, trafficFrames]
  | cons x a ih =>
    cases x <;> simp [trafficEvents, trafficBytes, trafficFrames, Traffic.bytes, Traffic.frames, ih, Nat.add_assoc]

/-- Answers depend on the oracle and on how many reads were made, and on nothing else. -/
theorem answer_congr {s t : State} {k m : Nat} (ho : t.oracle = s.oracle) (hr : t.reads + k = s.reads + m) :
    t.answer k = s.answer m := by
  simp [State.answer, ho, hr]

/-- Raise orders depend on the parameter and on how many STARTs ran, and on nothing else. -/
theorem dioFirstAt_congr {s t : State} {k m : Nat} (hc : t.cfg = s.cfg) (hs : t.starts + k = s.starts + m) :
    t.dioFirstAt k = s.dioFirstAt m := by
  simp [State.dioFirstAt, dioFirst, hc, hs]

theorem trafficSyms_congr {s t : State} {k m : Nat} (tr : List Traffic) (ho : t.oracle = s.oracle)
    (hr : t.reads + k = s.reads + m) : trafficSyms t k tr = trafficSyms s m tr := by
  induction tr generalizing k m with
  | nil => rfl
  | cons x tr ih =>
    cases x with
    | single v => simp only [trafficSyms, answer_congr ho hr, ih (k := k + 1) (m := m + 1) (by omega)]
    | dataWrite p v =>
      simp only [trafficSyms, answer_congr ho hr, ih (k := k + 3) (m := m + 3) (by omega),
        answer_congr (k := k + 1) (m := m + 1) ho (by omega), answer_congr (k := k + 2) (m := m + 2) ho (by omega)]

theorem trafficEvents_congr {s t : State} {k m j n : Nat} (tr : List Traffic) (ho : t.oracle = s.oracle)
    (hr : t.reads + k = s.reads + m) (hc : t.cfg = s.cfg) (hs : t.starts + j = s.starts + n) :
    trafficEvents t k j tr = trafficEvents s m n tr := by
  induction tr generalizing k m j n with
  | nil => rfl
  | cons x tr ih =>
    cases x with
    | single v =>
      simp only [trafficEvents, answer_congr ho hr, dioFirstAt_congr hc hs,
        ih (k := k + 1) (m := m + 1) (j := j + 1) (n := n + 1) (by omega) (by omega)]
    | dataWrite p v =>
      simp only [trafficEvents, answer_congr ho hr, dioFirstAt_congr hc hs,
        answer_congr (k := k + 1) (m := m + 1) ho (by omega), answer_congr (k := k + 2) (m := m + 2) ho (by omega),
        dioFirstAt_congr (k := j + 1) (m := n + 1) hc (by omega),
        ih (k := k + 3) (m := m + 3) (j := j + 2) (n := n + 2) (by omega) (by omega)]

theorem sent_cons (s : State) (x : Traffic) (rest : List Traffic) :
    sent s (x :: rest) =
      { checkNoFrame s with
        lvl := ⟨true, true⟩, dir := ⟨s.dir.clk, .output⟩, fstate := .idle
        shreg := 0x00#8, bitcnt := 0#4, useq := s.useq.map (· + trafficMicro (x :: rest))
        ackQ := s.answer (trafficBytes (x :: rest) - 1), sample := s.answer (trafficBytes (x :: rest) - 1)
        reads := s.reads + trafficBytes (x :: rest), starts := s.starts + trafficFrames (x :: rest)
        ltrace := s.ltrace ++ trafficEvents s 0 0 (x :: rest), wtrace := s.wtrace ++ trafficSyms s 0 (x :: rest) } :=
  (rfl)

@[simp] theorem checkNoFrame_oracle (s : State) : (checkNoFrame s).oracle = s.oracle := by simp [checkNoFrame]
@[simp] theorem checkNoFrame_cfg (s : State) : (checkNoFrame s).cfg = s.cfg := by simp [checkNoFrame]
@[simp] theorem checkNoFrame_buf (s : State) : (checkNoFrame s).buf = s.buf := by simp [checkNoFrame]

theorem trafficBytes_pos (x : Traffic) (rest : List Traffic) : 0 < trafficBytes (x :: rest) := by
  cases x <;> simp [trafficBytes, Traffic.bytes]

/-- Outside an open frame the check at the head of a START records nothing. -/
theorem checkNoFrame_idle {s : State} (h : s.fstate = .idle) : checkNoFrame s = s := by
  simp [checkNoFrame, violateIf, h]

/-- After traffic, more traffic: as one. -/
theorem sent_sent (s : State) (a b : List Traffic) (ha : a ≠ []) : sent (sent s a) b = sent s (a ++ b) := by
  obtain ⟨x, a, rfl⟩ := List.exists_cons_of_ne_nil ha
  cases b with
  | nil => simp [sent]
  | cons y b =>
    have hb := trafficBytes_pos y b
    have ho : (sent s (x :: a)).oracle = s.oracle := by simp [sent_cons]
    have hc : (sent s (x :: a)).cfg = s.cfg := by simp [sent_cons]
    have hr : (sent s (x :: a)).reads = s.reads + trafficBytes (x :: a) := (rfl)
    have hs : (sent s (x :: a)).starts = s.starts + trafficFrames (x :: a) := (rfl)
    have h1 : (sent s (x :: a)).answer (trafficBytes (y :: b) - 1) =
        s.answer (trafficBytes (x :: a ++ y :: b) - 1) :=
      answer_congr ho (by rw [hr, trafficBytes_append]; omega)
    have h2 := trafficSyms_congr (k := 0) (m := trafficBytes (x :: a)) (y :: b) ho (by rw [hr, Nat.add_zero])
    have h3 := trafficEvents_congr (k := 0) (m := trafficBytes (x :: a)) (j := 0) (n := trafficFrames (x :: a))
      (y :: b) ho (by rw [hr, Nat.add_zero]) hc (by rw [hs, Nat.add_zero])
    have h4 := trafficSyms_append s 0 (x :: a) (y :: b)
    have h5 := trafficEvents_append s 0 0 (x :: a) (y :: b)
    rw [sent_cons (sent s (x :: a)), checkNoFrame_idle rfl, h1, h2, h3, List.cons_append,
      sent_cons s x (a ++ y :: b), sent_cons s x a]
    rw [Nat.zero_add] at h4
    rw [Nat.zero_add, Nat.zero_add] at h5
    simp only [← List.cons_append, h4, h5, trafficBytes_append, trafficFrames_append, trafficMicro_append,
      Option.map_map, Function.comp_def, Nat.add_assoc, List.append_assoc]

/-- R150, R173: one byte in a frame of its own. -/
theorem sendCommand_sent (v : Byte) (s : State) : (sendCommand v s).2 = sent s [.single v] := by
  rw [sendCommand_state]
  simp [sent, trafficMicro, trafficBytes, trafficFrames, Traffic.bytes, Traffic.frames, trafficEvents, trafficSyms,
    State.dioFirstAt]

theorem controlRefresh_sent (s : State) : (controlRefresh s).2 = sent s [.single s.ctrl] := sendCommand_sent _ _

theorem addressCommandByte_eq (p : Pos) : addressCommandByte p = 0xC0#8 ||| p.setWidth 8 := (rfl)

theorem dataCommandByte_true : dataCommandByte true = 0x44#8 := (rfl)

/-- The two registers of the display layer that its own traffic neither reads nor writes. -/
def withDisplay (s : State) (b : Cells) (f : Bool) : State := { s with buf := b, colon := f }

@[simp] theorem withDisplay_buf (s : State) (b : Cells) (f : Bool) : (withDisplay s b f).buf = b := (rfl)
@[simp] theorem withDisplay_colon (s : State) (b : Cells) (f : Bool) : (withDisplay s b f).colon = f := (rfl)
@[simp] theorem withDisplay_ctrl (s : State) (b : Cells) (f : Bool) : (withDisplay s b f).ctrl = s.ctrl := (rfl)
@[simp] theorem withDisplay_self (s : State) : withDisplay s s.buf s.colon = s := (rfl)
@[simp] theorem withDisplay_twice (s : State) (b c : Cells) (f g : Bool) :
    withDisplay (withDisplay s b f) c g = withDisplay s c g := (rfl)

/-- Writing those registers commutes with sending. -/
theorem sent_withDisplay (s : State) (tr : List Traffic) (b : Cells) (f : Bool) :
    sent (withDisplay s b f) tr = withDisplay (sent s tr) b f := by
  cases tr with
  | nil => rfl
  | cons x tr =>
    have h2 := trafficSyms_congr (s := s) (t := withDisplay s b f) (k := 0) (m := 0) (x :: tr) rfl rfl
    have h3 := trafficEvents_congr (s := s) (t := withDisplay s b f) (k := 0) (m := 0) (j := 0) (n := 0) (x :: tr)
      rfl rfl rfl rfl
    rw [sent_cons, sent_cons, h2, h3]
    by_cases h : s.fstate = .idle
    · simp [withDisplay, checkNoFrame, violateIf, h, State.answer]
    · simp [withDisplay, checkNoFrame, violateIf, violation, h, State.answer]
      rfl

@[simp] theorem sent_buf (s : State) (tr : List Traffic) : (sent s tr).buf = s.buf := by
  cases tr <;> simp [sent, checkNoFrame]

@[simp] theorem sent_colon (s : State) (tr : List Traffic) : (sent s tr).colon = s.colon := by
  cases tr <;> simp [sent, checkNoFrame]

@[simp] theorem sent_ctrl (s : State) (tr : List Traffic) : (sent s tr).ctrl = s.ctrl := by
  cases tr <;> simp [sent, checkNoFrame, State.ctrl]

theorem withDisplay_sent_self (s : State) (tr : List Traffic) : withDisplay (sent s tr) s.buf s.colon = sent s tr := by
  conv_rhs => rw [← withDisplay_self (sent s tr), sent_buf, sent_colon]

/-- R172: the data-write transaction. -/
theorem dataWrite_sent (p : Pos) (v : Byte) (s : State) :
    (dataWrite p v s).2 = withDisplay (sent s [.dataWrite p v]) (s.buf.set p v) s.colon := by
  simp only [dataWrite, inOrder_cons_snd, inOrder_nil_snd, sendCommand_state, startFrame_state, sendByte_state,
    stopFrame_state, perform_snd, dataCommandByte_true, addressCommandByte_eq]
  by_cases h : s.fstate = .idle <;>
    simp [sent, withDisplay, run, checkNoFrame, checkFrame, violateIf, violation, h, State.answer, State.dioFirstAt,
      dioFirst, trafficMicro, trafficBytes, trafficFrames, Traffic.bytes, Traffic.frames, trafficEvents, trafficSyms,
      dataWriteWave, dataWriteFrames, oneByteFrame, Function.comp_def]

/-- R174: WRSEG without its result. -/
theorem writeSegment_sent (pos raw : Byte) (s : State) :
    (writeSegment pos raw s).2 =
      withDisplay (sent s (s.segmentTraffic (position pos) (compose (position pos) raw s.colon)))
        (s.buf.set (position pos) (compose (position pos) raw s.colon)) s.colon := by
  simp only [writeSegment, inOrder_cons_snd, inOrder_nil_snd, reading_apply, controlRefresh_sent, State.segmentTraffic]
  by_cases h : compose (position pos) raw s.colon = s.buf.get (position pos)
  · simp only [h, ne_eq, not_true_eq_false, if_false, nothing_snd, List.nil_append, Cells.set_get_self,
      withDisplay_sent_self]
  · simp only [ne_eq, h, not_false_eq_true, if_true, dataWrite_sent, sent_withDisplay, withDisplay_ctrl, sent_ctrl,
      sent_sent _ _ _ (List.cons_ne_nil _ _)]

/-- R177: SETCOLON without its result. -/
theorem overlay_sent (f : Bool) (s : State) :
    (overlay f s).2 =
      withDisplay (sent s [.dataWrite 1#2 (overlayColon s.buf.p1 f), .single s.ctrl])
        (s.buf.set 1#2 (overlayColon s.buf.p1 f)) f := by
  have h0 : run (.setColon f) s = withDisplay s s.buf f := (rfl)
  simp only [overlay, inOrder_cons_snd, inOrder_nil_snd, perform_snd, runAll_cons, runAll_nil, h0, reading_apply,
    colonPos, dataWrite_sent, controlRefresh_sent, sent_withDisplay, withDisplay_buf, withDisplay_colon,
    withDisplay_twice, withDisplay_ctrl, sent_ctrl, Cells.get_one, sent_sent _ _ _ (List.cons_ne_nil _ _),
    List.cons_append, List.nil_append]

theorem compose_colon_off (p : Pos) (raw : Byte) : compose p raw false = raw := by simp [compose]

/-- R182: CLEAR without its result. -/
theorem clearDisplay_sent (s : State) :
    (clearDisplay s).2 =
      withDisplay (sent s (clearTraffic s.buf s.ctrl)) ⟨0x00#8, 0x00#8, 0x00#8, 0x00#8⟩ false := by
  have h0 : position 0#8 = 0#2 := (rfl)
  have h1 : position 1#8 = 1#2 := (rfl)
  have h2 : position 2#8 = 2#2 := (rfl)
  have h3 : position 3#8 = 3#2 := (rfl)
  have hg : overlayColon s.buf.p1 false = s.buf.p1 &&& 0x7F#8 := by simp [overlayColon]
  have hb : ∀ a b : Byte, (a ≠ b) = (b ≠ a) := fun a b => by rw [ne_comm]
  simp only [clearDisplay, inOrder_cons_snd, inOrder_nil_snd, overlay_sent, writeSegment_sent, h0, h1, h2, h3, hg,
    compose_colon_off, sent_withDisplay, withDisplay_twice, withDisplay_colon, withDisplay_buf, State.segmentTraffic,
    withDisplay_ctrl, sent_ctrl, Cells.set_zero, Cells.set_one, Cells.set_two, Cells.set_three, Cells.get_zero,
    Cells.get_one, Cells.get_two, Cells.get_three, clearTraffic, blankTraffic, hb 0x00#8]
  simp only [sent_sent, ne_eq, List.append_eq_nil_iff, List.cons_ne_nil, and_false, not_false_eq_true,
    List.append_assoc]

/-- A host operation of the compound kind, from its body's traffic: the checks before, the result after. -/
theorem operate_hostOp_sent {f : Script} {s : State} {tr : List Traffic} {b : Cells} {c : Bool}
    (htr : tr ≠ []) (h : (f (checkInit (accept s))).2 = withDisplay (sent (checkInit (accept s)) tr) b c) :
    operate (hostOp f) s =
      { s.afterTraffic tr with
        buf := b, colon := c
        viol := (checkNoFrame (checkInit s)).viol, reasons := (checkNoFrame (checkInit s)).reasons } := by
  obtain ⟨x, tr, rfl⟩ := List.exists_cons_of_ne_nil htr
  have h2 := trafficSyms_congr (s := s) (t := checkInit (accept s)) (k := 0) (m := 0) (x :: tr)
    (by simp [checkInit]) (by simp [checkInit])
  have h3 := trafficEvents_congr (s := s) (t := checkInit (accept s)) (k := 0) (m := 0) (j := 0) (n := 0) (x :: tr)
    (by simp [checkInit]) (by simp [checkInit]) (by simp [checkInit]) (by simp [checkInit])
  have h4 : ∀ k, (checkInit (accept s)).answer k = s.answer k := fun k =>
    answer_congr (by simp [checkInit]) (by simp [checkInit])
  simp only [operate, hostOp, inOrder_cons_snd, inOrder_nil_snd, perform_snd, runAll_cons, runAll_nil, run] at h ⊢
  rw [h, sent_cons, h2, h3, h4]
  cases hi : s.inited <;> by_cases hf : s.fstate = .idle <;>
    simp [withDisplay, complete, State.afterTraffic, checkInit, checkNoFrame, violateIf, violation, accept, hi, hf]

end Sys2Proof.Machine
end

