-- ==== Sys2Proof/Laws/PerInstr.lean ====
section
/-! SUPPORT. Per instruction: its encoding is canonical (30_encoding.md R96, R97, R100). -/

namespace Sys2Proof.Laws.Canonical

/-- The encoding has a known opcode, no unused operand bit set, and a wire command only in a command slot. -/
abbrev Statement (i : Instr) : Prop := Code.wellFormed (encode i) = true

theorem three_operand_bytes (op a b : Byte) (h : usedBits op = some 0xFFFFFF#24) :
    Code.wellFormed (.cmd (cmdWord op a b)) = true := by
  have ho := opField_cmdWord op a b
  simp only [opField] at ho
  simp only [Code.wellFormed, ho, h, beq_iff_eq]
  exact BitVec.and_allOnes

theorem drvh (l : Line) : Statement (.drvh l) := by cases l <;> decide
theorem drvl (l : Line) : Statement (.drvl l) := by cases l <;> decide
theorem setDir (l : Line) (d : Dir) : Statement (.setDir l d) := by cases l <;> cases d <;> decide
theorem read (l : Line) : Statement (.read l) := by cases l <;> decide
theorem start : Statement .start := by decide
theorem wrByte (v : Byte) : Statement (.wrByte v) := by revert v; decide +kernel
theorem stop : Statement .stop := by decide
theorem command (v : Byte) : Statement (.command v) := by revert v; decide +kernel
theorem wrSeg (p r : Byte) : Statement (.wrSeg p r) := three_operand_bytes _ p r rfl
theorem setColon (f : Bool) : Statement (.setColon f) := by cases f <;> decide
theorem setBrt (v : Byte) : Statement (.setBrt v) := by revert v; decide +kernel
theorem setEn (f : Bool) : Statement (.setEn f) := by cases f <;> decide
theorem clear : Statement .clear := by decide
theorem init (c d : Byte) : Statement (.init c d) := three_operand_bytes _ c d rfl
theorem dispDigit (p d : Byte) : Statement (.dispDigit p d) := three_operand_bytes _ p d rfl
theorem dig2Seg (d : Byte) : Statement (.dig2Seg d) := by revert d; decide +kernel
theorem chr2Seg (c : Byte) : Statement (.chr2Seg c) := by revert c; decide +kernel
theorem wireDataCmd (f : Bool) : Statement (.wireDataCmd f) := by cases f <;> decide
theorem wireAddrCmd (p : Pos) : Statement (.wireAddrCmd p) := by revert p; decide +kernel
theorem wireCtrlCmd (e : Bool) (b : BitVec 3) : Statement (.wireCtrlCmd e b) := by
  revert e b; decide +kernel
theorem wireSegByte (c : Bool) (g : BitVec 7) : Statement (.wireSegByte c g) := rfl

end Sys2Proof.Laws.Canonical
end

