-- ==== Sys2Proof/Laws/Sequencer.lean ====
section
/-! SUPPORT. The micro-sequencer: what one micro-operation does to `busy` and `useq`, that no list of an operation ends
in a part that waits for a micro-step which never comes, and what one micro-step and all of them lead to (R24). -/

namespace Sys2Proof.Machine

/-- R24: a micro-step advances `useq` by one, a transfer not at all, and neither touches `busy`. -/
theorem run_busy_useq (u : Uop) (s : State) :
    (run u s).busy = s.busy ∧ (run u s).useq = if timing u = .micro then s.useq.map (· + 1) else s.useq := by
  cases u <;>
    simp [run, timing, drive, direct, sampleLine, checkInit, checkNoFrame, checkFrame, checkPins, latchAck]

theorem microCount_append (us vs : List Uop) : microCount (us ++ vs) = microCount us + microCount vs :=
  List.countP_append

theorem microCount_cons (u : Uop) (us : List Uop) :
    microCount (u :: us) = microCount us + if timing u = .micro then 1 else 0 := by
  simp [microCount, List.countP_cons]

/-- R24: `useq` counts the micro-steps. -/
theorem runAll_useq (us : List Uop) (s : State) : (runAll us s).useq = s.useq.map (· + microCount us) := by
  induction us generalizing s with
  | nil => simp [microCount]
  | cons u us ih =>
    rw [runAll_cons, ih, (run_busy_useq u s).2, microCount_cons]
    by_cases ht : timing u = .micro
    · cases s.useq <;> simp [ht]; omega
    · simp [ht]

/-- Micro-operations neither read nor write the host's words. -/
theorem run_with_pending (u : Uop) (s : State) (words : List Code) :
    run u { s with pending := words } = { run u s with pending := words } := by
  cases u <;>
    simp [run, drive, direct, emitL, emitW, advance, sampleLine, checkInit, checkNoFrame, checkFrame, checkPins,
      latchAck, violateIf, violation, State.answer] <;>
    (try split_ifs) <;> rfl

/-- Micro-operations neither read nor write what is left of the list. -/
theorem run_with_prog (u : Uop) (s : State) (us : List Uop) :
    run u { s with prog := us } = { run u s with prog := us } := by
  cases u <;>
    simp [run, drive, direct, emitL, emitW, advance, sampleLine, checkInit, checkNoFrame, checkFrame, checkPins,
      latchAck, violateIf, violation, State.answer] <;>
    (try split_ifs) <;> rfl

theorem runAll_with_prog (us vs : List Uop) (s : State) :
    runAll us { s with prog := vs } = { runAll us s with prog := vs } := by
  induction us generalizing s with
  | nil => rfl
  | cons u us ih => simp only [runAll_cons, run_with_prog, ih]

theorem settle_with_pending (us : List Uop) (s : State) (words : List Code) :
    settle us { s with pending := words } = { settle us s with pending := words } := by
  induction us generalizing s with
  | nil => rfl
  | cons u us ih => unfold settle; rw [run_with_pending, ih]; split <;> rfl

theorem performNext_with_pending (us : List Uop) (s : State) (words : List Code) :
    performNext us { s with pending := words } = { performNext us s with pending := words } := by
  induction us generalizing s with
  | nil => rfl
  | cons u us ih => unfold performNext; rw [run_with_pending, ih, settle_with_pending]; split <;> rfl

/-- No part that goes with the next micro-step stands after the last micro-step. -/
def ends (us : List Uop) : Bool :=
  match us with
  | [] => true
  | u :: rest => (timing u != .withNext || 0 < microCount rest) && ends rest

theorem ends_append {us vs : List Uop} (hu : ends us = true) (hv : ends vs = true) : ends (us ++ vs) = true := by
  induction us with
  | nil => exact hv
  | cons u us ih =>
    simp only [ends, List.cons_append, Bool.and_eq_true, Bool.or_eq_true, decide_eq_true_eq, microCount_append] at hu ⊢
    exact ⟨hu.1.imp id (Nat.add_pos_left · _), ih hu.2⟩

theorem ends_before {us vs : List Uop} (hv : ends vs = true) (hm : 0 < microCount vs) : ends (us ++ vs) = true := by
  induction us with
  | nil => exact hv
  | cons u us ih =>
    simp only [ends, List.cons_append, Bool.and_eq_true, Bool.or_eq_true, decide_eq_true_eq, microCount_append]
    exact ⟨.inr (Nat.add_pos_right _ hm), ih⟩

/-- After a micro-step: the operation is complete, or the sequencer stands before the next micro-step. -/
theorem settle_spec (us : List Uop) (s : State) (he : ends us = true) :
    (microCount us = 0 ∧ settle us s = complete { runAll us s with prog := [] }) ∨
      (0 < microCount us ∧ ∃ vs t, settle us s = { t with prog := vs } ∧ ends vs = true
        ∧ microCount vs = microCount us ∧ runAll vs t = runAll us s ∧ t.busy = s.busy ∧ t.useq = s.useq) := by
  induction us generalizing s with
  | nil => exact .inl ⟨rfl, rfl⟩
  | cons u us ih =>
    have he' := he
    simp only [ends, Bool.and_eq_true, Bool.or_eq_true, decide_eq_true_eq, bne_iff_ne, ne_eq] at he'
    have hb := run_busy_useq u s
    unfold settle
    rw [microCount_cons]
    cases ht : timing u with
    | withLast =>
      simp only [ht, reduceCtorEq, if_true, if_false, Nat.add_zero] at hb ⊢
      rcases ih (run u s) he'.2 with ⟨h1, h2⟩ | ⟨h1, vs, t, h2, h3, h4, h5, h6, h7⟩
      · exact .inl ⟨h1, h2⟩
      · exact .inr ⟨h1, vs, t, h2, h3, h4, h5, h6.trans hb.1, h7.trans hb.2⟩
    | micro =>
      simp only [reduceCtorEq, if_true, if_false]
      exact .inr ⟨Nat.succ_pos _, u :: us, s, rfl, he, by simp [microCount_cons, ht], rfl, rfl, rfl⟩
    | withNext =>
      simp only [reduceCtorEq, if_false, Nat.add_zero]
      have hp : 0 < microCount us := he'.1.resolve_left (by simp [ht])
      exact .inr ⟨hp, u :: us, s, rfl, he, by simp [microCount_cons, ht], rfl, rfl, rfl⟩

/-- One micro-step: the last one completes the operation, any other leaves a shorter list that leads to the same. -/
theorem performNext_spec (us : List Uop) (s : State) (he : ends us = true) (hp : 0 < microCount us) :
    (microCount us = 1 ∧ performNext us s = complete { runAll us s with prog := [] }) ∨
      (1 < microCount us ∧ ∃ vs t, performNext us s = { t with prog := vs } ∧ ends vs = true
        ∧ microCount vs + 1 = microCount us ∧ runAll vs t = runAll us s ∧ t.busy = s.busy
        ∧ t.useq = s.useq.map (· + 1)) := by
  induction us generalizing s with
  | nil => simp [microCount] at hp
  | cons u us ih =>
    simp only [ends, Bool.and_eq_true] at he
    have hb := run_busy_useq u s
    unfold performNext
    rw [microCount_cons] at hp ⊢
    by_cases ht : timing u = .micro
    · simp only [ht, if_true] at hb ⊢
      rcases settle_spec us (run u s) he.2 with ⟨h1, h2⟩ | ⟨h1, vs, t, h2, h3, h4, h5, h6, h7⟩
      · exact .inl ⟨by omega, h2⟩
      · exact .inr ⟨by omega, vs, t, h2, h3, by omega, h5, h6.trans hb.1, h7.trans hb.2⟩
    · simp only [ht, if_false, Nat.add_zero] at hb hp ⊢
      rcases ih (run u s) he.2 hp with ⟨h1, h2⟩ | ⟨h1, vs, t, h2, h3, h4, h5, h6, h7⟩
      · exact .inl ⟨h1, h2⟩
      · exact .inr ⟨h1, vs, t, h2, h3, h4, h5, h6.trans hb.1, by rw [h7, hb.2]⟩

/-- A running operation with `n + 1` micro-steps left. -/
theorem microSteps_spec (n : Nat) (us : List Uop) (t : State) (k : Nat) (hm : microCount us = n + 1)
    (he : ends us = true) (hb : t.busy = true) (hu : t.useq = some k) :
    microSteps (n + 1) { t with prog := us } = complete { runAll us t with prog := [] }
      ∧ ∀ j, j ≤ n → (microSteps j { t with prog := us }).busy = true
        ∧ (microSteps j { t with prog := us }).useq = some (k + j) := by
  induction n generalizing us t k with
  | zero =>
    refine ⟨?_, fun j hj => ?_⟩
    · rcases performNext_spec us { t with prog := us } he (by omega) with ⟨_, h2⟩ | ⟨h1, _⟩
      · exact h2.trans (by rw [runAll_with_prog])
      · omega
    · obtain rfl : j = 0 := by omega
      exact ⟨hb, hu⟩
  | succ n ih =>
    rcases performNext_spec us { t with prog := us } he (by omega) with ⟨h1, _⟩ | ⟨_, vs, t', h2, h3, h4, h5, h6, h7⟩
    · omega
    have hs : microStep { t with prog := us } = { t' with prog := vs } := h2
    have hn := ih vs t' (k + 1) (by omega) h3 (h6.trans hb) (by rw [h7]; simp [hu])
    refine ⟨?_, fun j hj => ?_⟩
    · rw [microSteps, hs, hn.1, h5, runAll_with_prog]
    · cases j with
      | zero => exact ⟨hb, hu⟩
      | succ j =>
        have hj' := hn.2 j (by omega)
        rw [microSteps, hs]
        exact ⟨hj'.1, by rw [hj'.2]; congr 1; omega⟩

/-- A script all of whose lists end with a micro-step's part. -/
def Ends (f : Script) : Prop := ∀ s, ends (f s).1 = true

/-- A script all of whose lists hold a micro-step. -/
def HasMicro (f : Script) : Prop := ∀ s, 0 < microCount (f s).1

theorem ends_perform {us : List Uop} (h : ends us = true) : Ends (perform us) := fun _ => h

theorem ends_andThen {f g : Script} (hf : Ends f) (hg : Ends g) : Ends (andThen f g) :=
  fun s => ends_append (hf s) (hg _)

theorem ends_inOrder {fs : List Script} (h : ∀ f ∈ fs, Ends f) : Ends (inOrder fs) := by
  induction fs with
  | nil => exact fun _ => rfl
  | cons f fs ih =>
    exact ends_andThen (h f (List.mem_cons_self ..)) (ih fun g hg => h g (List.mem_cons_of_mem _ hg))

/-- Checks and transfers in front of a script that has a micro-step wait for that one. -/
theorem ends_front {us : List Uop} {g : Script} (hg : Ends g) (hm : HasMicro g) : Ends (andThen (perform us) g) :=
  fun _ => ends_before (hg _) (hm _)

theorem hasMicro_left {f g : Script} (h : HasMicro f) : HasMicro (andThen f g) := fun s => by
  simp only [andThen, microCount_append]; exact Nat.add_pos_left (h s) _

theorem hasMicro_right {f g : Script} (h : HasMicro g) : HasMicro (andThen f g) := fun s => by
  simp only [andThen, microCount_append]; exact Nat.add_pos_right _ (h _)

theorem ends_startFrame : Ends startFrame := by
  intro s; simp only [startFrame, reading, perform]; cases dioFirst s <;> rfl

theorem hasMicro_startFrame : HasMicro startFrame := by
  intro s; simp only [startFrame, reading, perform]; cases dioFirst s <;> decide

theorem ends_sendByte (v : Byte) : Ends (sendByte v) := fun _ => rfl

theorem hasMicro_sendByte (v : Byte) : HasMicro (sendByte v) := fun _ => (by decide : 0 < 49)

theorem ends_stopFrame : Ends stopFrame := fun _ => rfl

theorem hasMicro_stopFrame : HasMicro stopFrame := fun _ => (by decide : 0 < 7)

theorem ends_sendCommand (v : Byte) : Ends (sendCommand v) :=
  ends_inOrder (by simp [ends_startFrame, ends_sendByte, ends_stopFrame])

theorem hasMicro_sendCommand (v : Byte) : HasMicro (sendCommand v) := hasMicro_left hasMicro_startFrame

theorem ends_controlRefresh : Ends controlRefresh := fun s => ends_sendCommand _ s

theorem hasMicro_controlRefresh : HasMicro controlRefresh := fun s => hasMicro_sendCommand _ s

theorem ends_dataWrite (p : Pos) (v : Byte) : Ends (dataWrite p v) :=
  ends_inOrder
    (by simp [ends_startFrame, ends_sendByte, ends_stopFrame, ends_sendCommand, ends_perform, ends, timing])

theorem hasMicro_dataWrite (p : Pos) (v : Byte) : HasMicro (dataWrite p v) := hasMicro_left (hasMicro_sendCommand _)

theorem ends_writeSegment (pos raw : Byte) : Ends (writeSegment pos raw) := by
  refine ends_inOrder ?_
  simp only [List.mem_cons, List.not_mem_nil, or_false, forall_eq_or_imp, forall_eq]
  refine ⟨fun s => ?_, ends_controlRefresh⟩
  simp only [reading]
  split
  · exact ends_dataWrite _ _ s
  · rfl

theorem hasMicro_writeSegment (pos raw : Byte) : HasMicro (writeSegment pos raw) :=
  hasMicro_right (hasMicro_left hasMicro_controlRefresh)

theorem ends_overlay (f : Bool) : Ends (overlay f) :=
  ends_front
    (ends_inOrder
      (by
        simp only [List.mem_cons, List.not_mem_nil, or_false, forall_eq_or_imp, forall_eq]
        exact ⟨fun s => ends_dataWrite _ _ s, ends_controlRefresh⟩))
    (hasMicro_left fun s => hasMicro_dataWrite _ _ s)

theorem hasMicro_overlay (f : Bool) : HasMicro (overlay f) :=
  hasMicro_right (hasMicro_left fun s => hasMicro_dataWrite _ _ s)

theorem ends_clearDisplay : Ends clearDisplay := ends_inOrder (by simp [ends_overlay, ends_writeSegment])

theorem hasMicro_clearDisplay : HasMicro clearDisplay := hasMicro_left (hasMicro_overlay _)

theorem ends_result (us : List Uop) (h : ends us = true) {f : Script} (hf : Ends f) :
    Ends (inOrder [f, perform us]) :=
  ends_inOrder (by simp [hf, ends_perform h])

theorem ends_hostOp {f : Script} (h : Ends f) (hm : HasMicro f) : Ends (hostOp f) :=
  ends_front (ends_result _ rfl h) (hasMicro_left hm)

theorem ends_wrByteScript (v : Byte) : Ends (wrByteScript v) :=
  ends_front (ends_result _ rfl (ends_sendByte v)) (hasMicro_left (hasMicro_sendByte v))

/-- R24: the list of every operation ends with a micro-step's part. -/
theorem ends_scriptOf (i : Instr) : Ends (scriptOf i) := by
  cases i with
  | drvh l => exact fun _ => rfl
  | drvl l => exact fun _ => rfl
  | setDir l d => exact fun _ => rfl
  | read l => exact fun _ => rfl
  | start => exact ends_hostOp ends_startFrame hasMicro_startFrame
  | wrByte v => exact ends_wrByteScript v
  | stop => exact ends_hostOp ends_stopFrame hasMicro_stopFrame
  | command v => exact ends_hostOp (ends_sendCommand v) (hasMicro_sendCommand v)
  | wrSeg p r => exact ends_hostOp (ends_writeSegment p r) (hasMicro_writeSegment p r)
  | setColon f => exact ends_hostOp (ends_overlay f) (hasMicro_overlay f)
  | setBrt v =>
    exact ends_hostOp (ends_front (ends_inOrder (by simp [ends_controlRefresh])) (hasMicro_left hasMicro_controlRefresh))
      (hasMicro_right (hasMicro_left hasMicro_controlRefresh))
  | setEn f =>
    exact ends_hostOp (ends_front (ends_inOrder (by simp [ends_controlRefresh])) (hasMicro_left hasMicro_controlRefresh))
      (hasMicro_right (hasMicro_left hasMicro_controlRefresh))
  | clear => exact ends_hostOp ends_clearDisplay hasMicro_clearDisplay
  | init c d => exact ends_inOrder (by simp [ends_clearDisplay, ends_perform, ends, timing, microCount])
  | dispDigit p d => exact ends_hostOp (fun s => ends_writeSegment _ _ s) fun s => hasMicro_writeSegment _ _ s
  | dig2Seg d => exact fun _ => rfl
  | chr2Seg c => exact fun _ => rfl
  | wireDataCmd f => exact ends_wrByteScript _
  | wireAddrCmd p => exact ends_wrByteScript _
  | wireCtrlCmd e b => exact ends_wrByteScript _
  | wireSegByte c g => exact ends_wrByteScript _

end Sys2Proof.Machine
end

