-- ==== Sys2Proof/Laws/WireDecoder.lean ====
section
/-! SUPPORT. What a receiver on the two wires sees of each waveform (20_memory.md R75). -/

namespace Sys2Proof.Machine

theorem functional_append (a b : List Event) : functional (a ++ b) = functional a ++ functional b :=
  List.filter_append ..

/-- Events seen one part after another. -/
theorem observeAll_append (r : Receiver) (a b : List Event) :
    observeAll r (a ++ b) =
      ((observeAll (observeAll r a).1 b).1, (observeAll r a).2 ++ (observeAll (observeAll r a).1 b).2) := by
  induction a generalizing r with
  | nil => rfl
  | cons e a ih => simp [observeAll, ih]

/-- A receiver whose lines the engine both drives. -/
def driven (lvl : PerLine Bit) (n : Nat) (sh : Byte) : Receiver where
  lvl := lvl
  dir := ⟨.output, .output⟩
  n := n
  sh := sh

/-- R145: one data bit is taken at the rising clock edge, whatever the lines were before. -/
theorem observe_bitWave (lvl : PerLine Bit) (n : Nat) (sh : Byte) (b : Bit) (h : n < 8) :
    observeAll (driven lvl n sh) (functional (bitWave b)) =
      (driven ⟨true, b⟩ (n + 1) (setBit sh n b), []) := by
  obtain ⟨c, d⟩ := lvl
  cases c <;> cases d <;> cases b <;>
    simp [driven, functional, bitWave, observeAll, observe, clockMoved, dataMoved, h]

/-- R146: the ninth rising edge, in the ACK slot, yields the byte. -/
theorem observe_ackWave (d : Bit) (sh : Byte) (a : Bit) :
    observeAll (driven ⟨true, d⟩ 8 sh) (functional (ackWave a)) = (driven ⟨false, d⟩ 0 0x00#8, [.byte sh]) := by
  simp [driven, functional, ackWave, observeAll, observe, clockMoved]

/-- R63, R145: the eight bits put back together, least significant first. -/
theorem setBit_all (v sh : Byte) :
    setBit (setBit (setBit (setBit (setBit (setBit (setBit (setBit sh 0 v[0]) 1 v[1]) 2 v[2]) 3 v[3]) 4 v[4]) 5 v[5]) 6
      v[6]) 7 v[7] = v := by
  have key : ∀ (n : Nat) (b : Bit) (x : Byte) (i : Nat) (_ : n < 8) (hi : i < 8),
      (setBit x n b)[i] = if i = n then b else x[i] := by
    intro n b x i hn hi
    have h1 : (1#8 <<< n)[i] = decide (i = n) := by
      by_cases h1 : i < n <;> by_cases h2 : i = n <;> simp [BitVec.getElem_shiftLeft, h1, h2]
      omega
    cases b <;> by_cases hin : i = n <;> simp [setBit, h1, hin]
  ext i hi
  simp only [key _ _ _ _ _ hi, Nat.reduceLT]
  split_ifs <;> first | (subst_vars; rfl) | omega

/-- R145, R146: a byte with its ACK slot, from a receiver that stands between two bytes. -/
theorem observe_byteWave (lvl : PerLine Bit) (sh v : Byte) (a : Bit) :
    observeAll (driven lvl 0 sh) (functional (byteWave v a)) = (driven ⟨false, v[7]⟩ 0 0x00#8, [.byte v]) := by
  simp only [byteWave, bitsWave, functional_append, observeAll_append, observe_bitWave, observe_ackWave, Nat.reduceLT,
    Nat.reduceAdd, setBit_all, List.nil_append]

/-- R149: STOP is one stop mark, whatever the lines were before. -/
theorem observe_stopWave (lvl : PerLine Bit) (sh : Byte) :
    observeAll (driven lvl 0 sh) (functional stopWave) = (driven ⟨true, true⟩ 0 0x00#8, [.stop]) := by
  obtain ⟨c, d⟩ := lvl
  cases c <;> cases d <;> simp [driven, functional, stopWave, observeAll, observe, clockMoved, dataMoved]

/-- R142, R143, R76: START is a start mark, with one stop mark before it when the data line is raised with the clock
high. -/
theorem observe_startWave (lvl : PerLine Bit) (sh : Byte) (dioIsFirst : Bool) :
    observeAll (driven lvl 0 sh) (functional (startWave dioIsFirst)) =
      (driven ⟨true, false⟩ 0 0x00#8, (if !lvl.dio && (lvl.clk || !dioIsFirst) then [.stop] else []) ++ [.start]) := by
  obtain ⟨c, d⟩ := lvl
  cases c <;> cases d <;> cases dioIsFirst <;>
    simp [driven, functional, startWave, observeAll, observe, clockMoved, dataMoved]

end Sys2Proof.Machine
end

