-- ==== Sys2Proof/Tests/Slice0.lean ====
section
/-! SUPPORT. Tests: well-formedness, decoding, one step at a time, and a witness for the hypotheses of every statement.
Every expected value comes from spec/, most from 95_test_vectors.md (X, V, PG numbers) under its parameter instance. -/

namespace Sys2Proof.Tests

open Sys2Proof.Machine

/-- The small state most tests start from: what INIT 1, 2 leaves (42_display_state.md R184), with empty traces. -/
def ready (o : Oracle) : State :=
  { State.resetWith Config.vectors with oracle := o, lvl := ⟨true, true⟩, dir := ⟨.output, .output⟩, inited := true }

/-- `ready` with a frame open, as START leaves it (41_frame_protocol.md R143). -/
def opened (o : Oracle) : State := { ready o with lvl := ⟨true, false⟩, fstate := .framed }

/-- The operation answers a next state of which this holds. -/
def after (i : Instr) (s : State) (holds : State → Bool) : Bool :=
  match exec i s with
  | .next t => holds t
  | .fault _ => false
  | .refused _ => false

/-- One step answers a next state of which this holds. -/
def afterStep (s : State) (holds : State → Bool) : Bool :=
  match step s with
  | .next t => holds t
  | .fault _ => false
  | .refused _ => false

/-- The engine at hand with these words still to issue. -/
def presenting (words : List Code) : State := { ready .acking with pending := words }

/-! Well-formedness: one ill-formed term for each check -/

theorem test_reserved_opcode_ill_formed : Code.wellFormed (.cmd 0x140000#24) = false := by decide
theorem test_unused_bits_ill_formed : Code.wellFormed (.cmd 0x20ABCD#24) = false := by decide
theorem test_no_wire_command_ill_formed : Code.wellFormed (.wire .command 0x20#8) = false := by decide
theorem test_canonical_words_well_formed :
    Code.wellFormed (.cmd 0x200000#24) = true ∧ Code.wellFormed (.wire .segment 0x20#8) = true := by decide
theorem test_settle_zero_ill_formed : Config.wellFormed { Config.vectors with tSettle := 0 } = false := by decide
theorem test_scroll_zero_ill_formed : Config.wellFormed { Config.vectors with tScroll := 0 } = false := by decide
theorem test_mapped_digit_ill_formed :
    Config.wellFormed { Config.vectors with charMap := [(0x39#8, 0x01#7)] } = false := by decide
theorem test_code_mapped_twice_ill_formed :
    Config.wellFormed { Config.vectors with charMap := [(0x41#8, 0x77#7), (0x41#8, 0x01#7)] } = false := by decide
theorem test_vectors_well_formed : Config.wellFormed Config.vectors = true := by decide
theorem test_instr_well_formed : Instr.wellFormed (.wrSeg 0xFF#8 0xFF#8) = true := by decide

/-! Decoding: opcode, `a`, `b` written out from 30_encoding.md R90 to R106 -/

theorem test_decode_drvh : decode (.cmd (0b00010000#8 ++ 0b00000000#8 ++ 0b00000000#8)) = .ok (.drvh .clk) := by decide
theorem test_decode_drvl : decode (.cmd (0b00010001#8 ++ 0b00000001#8 ++ 0b00000000#8)) = .ok (.drvl .dio) := by decide
theorem test_decode_setDir :
    decode (.cmd (0b00010010#8 ++ 0b00000011#8 ++ 0b00000000#8)) = .ok (.setDir .dio .input)
      ∧ decode (.cmd (0b00010010#8 ++ 0b00000010#8 ++ 0b00000000#8)) = .ok (.setDir .clk .input) := by decide
theorem test_decode_read : decode (.cmd (0b00010011#8 ++ 0b00000001#8 ++ 0b00000000#8)) = .ok (.read .dio) := by decide
theorem test_decode_start : decode (.cmd (0b00100000#8 ++ 0b10101011#8 ++ 0b11001101#8)) = .ok .start := by decide
theorem test_decode_wrByte :
    decode (.cmd (0b00100001#8 ++ 0b00000000#8 ++ 0b01000100#8)) = .ok (.wrByte 0x44#8) := by decide
theorem test_decode_stop : decode (.cmd (0b00100010#8 ++ 0b00000000#8 ++ 0b00000000#8)) = .ok .stop := by decide
theorem test_decode_command :
    decode (.cmd (0b00100011#8 ++ 0b00000000#8 ++ 0b10001111#8)) = .ok (.command 0x8F#8) := by decide
theorem test_decode_wrSeg :
    decode (.cmd (0b00110000#8 ++ 0b00000101#8 ++ 0b00000111#8)) = .ok (.wrSeg 0x05#8 0x07#8) := by decide
theorem test_decode_setColon :
    decode (.cmd (0b00110001#8 ++ 0b11111111#8 ++ 0b01110111#8)) = .ok (.setColon true) := by decide
theorem test_decode_setBrt :
    decode (.cmd (0b00110010#8 ++ 0b00000000#8 ++ 0b11111010#8)) = .ok (.setBrt 0xFA#8) := by decide
theorem test_decode_setEn :
    decode (.cmd (0b00110011#8 ++ 0b00000000#8 ++ 0b00000000#8)) = .ok (.setEn false)
      ∧ decode (.cmd (0b00110011#8 ++ 0b11111110#8 ++ 0b00000000#8)) = .ok (.setEn false) := by decide
theorem test_decode_clear : decode (.cmd (0b00110100#8 ++ 0b00000000#8 ++ 0b00000000#8)) = .ok .clear := by decide
theorem test_decode_init :
    decode (.cmd (0b00110101#8 ++ 0b00000001#8 ++ 0b00000010#8)) = .ok (.init 0x01#8 0x02#8) := by decide
theorem test_decode_dispDigit :
    decode (.cmd (0b00110110#8 ++ 0b00000010#8 ++ 0b11111111#8)) = .ok (.dispDigit 0x02#8 0xFF#8) := by decide
theorem test_decode_dig2Seg :
    decode (.cmd (0b01000000#8 ++ 0b00000000#8 ++ 0b00000101#8)) = .ok (.dig2Seg 0x05#8) := by decide
theorem test_decode_chr2Seg :
    decode (.cmd (0b01000001#8 ++ 0b00000000#8 ++ 0b00110101#8)) = .ok (.chr2Seg 0x35#8) := by decide
theorem test_decode_wireDataCmd :
    decode (.wire .command 0b01000100#8) = .ok (.wireDataCmd true)
      ∧ decode (.wire .command 0b01000000#8) = .ok (.wireDataCmd false) := by decide
theorem test_decode_wireAddrCmd : decode (.wire .command 0b11000010#8) = .ok (.wireAddrCmd 2#2) := by decide
theorem test_decode_wireCtrlCmd : decode (.wire .command 0b10000111#8) = .ok (.wireCtrlCmd false 7#3) := by decide
theorem test_decode_wireSegByte :
    decode (.wire .segment 0b11011011#8) = .ok (.wireSegByte true 0x5B#7)
      ∧ decode (.wire .segment 0b01000100#8) = .ok (.wireSegByte false 0x44#7) := by decide

theorem test_decode_reserved :
    decode (.cmd 0x000000#24) = .reserved 0x00#8 ∧ decode (.cmd 0x0F0000#24) = .reserved 0x0F#8
      ∧ decode (.cmd 0x140000#24) = .reserved 0x14#8 ∧ decode (.cmd 0x1F0000#24) = .reserved 0x1F#8
      ∧ decode (.cmd 0x240000#24) = .reserved 0x24#8 ∧ decode (.cmd 0x370000#24) = .reserved 0x37#8
      ∧ decode (.cmd 0x420000#24) = .reserved 0x42#8 ∧ decode (.cmd 0xFF0000#24) = .reserved 0xFF#8 := by decide
theorem test_decode_no_command :
    decode (.wire .command 0x48#8) = .noCommand 0x48#8 ∧ decode (.wire .command 0xC4#8) = .noCommand 0xC4#8
      ∧ decode (.wire .command 0x90#8) = .noCommand 0x90#8 ∧ decode (.wire .command 0x3F#8) = .noCommand 0x3F#8 := by
  decide

/-- The words of 95_test_vectors.md 2.1 by the number the host writes. -/
theorem test_encode_words :
    encode (.drvl .dio) = .cmd 0x110100#24 ∧ encode (.setDir .dio .input) = .cmd 0x120300#24
      ∧ encode (.command 0x8F#8) = .cmd 0x23008F#24 ∧ encode (.wrSeg 5#8 7#8) = .cmd 0x300507#24
      ∧ encode (.setEn false) = .cmd 0x330000#24 ∧ encode (.init 1#8 2#8) = .cmd 0x350102#24 := by decide

theorem test_table_words :
    decodeTableWord 24 0x360005 = some (.dispDigit 0x00#8 0x05#8) ∧ decodeTableWord 24 0x370000 = none
      ∧ decodeTableWord 8 0x8F = some (.wireCtrlCmd true 7#3) ∧ decodeTableWord 8 0x06 = some (.wireSegByte false 6#7)
      ∧ decodeTableWord 16 0x2000 = none := by decide

/-! Line transport: V1 to V4c -/

theorem test_drvl : after (.drvl .clk) (ready .acking) (fun t =>
    t.lvl == ⟨false, true⟩ && t.ltrace == [.drv .clk false, .dly] && t.reasons == [.rawLineOp] && t.viol) = true := by
  decide +kernel
theorem test_drvl_input_line : after (.drvl .dio) { ready .acking with dir := ⟨.output, .input⟩ } (fun t =>
    t.lvl == ⟨true, false⟩ && t.dir == ⟨.output, .input⟩ && t.wire .dio == none) = true := by decide +kernel
theorem test_drvh : after (.drvh .clk) (ready .acking) (fun t =>
    t.lvl == ⟨true, true⟩ && t.ltrace == [.drv .clk true, .dly] && t.res == 0x00#8 && t.viol) = true := by decide +kernel
theorem test_setDir : after (.setDir .dio .input) (ready .acking) (fun t =>
    t.dir == ⟨.output, .input⟩ && t.lvl == ⟨true, true⟩ && t.ltrace == [.dir .dio .input, .dly] && t.viol) = true := by
  decide +kernel
theorem test_read_one : after (.read .dio) (ready (.script [true])) (fun t =>
    t.res == 0x01#8 && t.ackQ == true && t.ltrace == [.rd .dio true, .dly] && !t.viol) = true := by decide +kernel
theorem test_read_not_latch : after (.read .clk) (ready .acking) (fun t =>
    t.res == 0x00#8 && t.ackQ == true && t.ltrace == [.rd .clk false, .dly]) = true := by decide +kernel

/-! Frame protocol: V4 to V9 -/

theorem test_start : after .start (ready .acking) (fun t =>
    t.ltrace == [.drv .dio true, .drv .clk true, .dly, .drv .dio false] && t.wtrace == [.start]
      && t.lvl == ⟨true, false⟩ && t.fstate == .framed && !t.viol) = true := by decide +kernel
theorem test_start_clk_first :
    after .start { ready .acking with cfg := { Config.vectors with raiseOrder := .clkFirst } } (fun t =>
      t.ltrace == [.drv .clk true, .drv .dio true, .dly, .drv .dio false]) = true := by decide +kernel
theorem test_wrByte : after (.wrByte 0x8F#8) (opened .acking) (fun t =>
    t.ltrace ==
      [.drv .clk false, .drv .dio true, .dly, .drv .clk true, .dly, .drv .clk false, .drv .dio true, .dly,
        .drv .clk true, .dly, .drv .clk false, .drv .dio true, .dly, .drv .clk true, .dly, .drv .clk false,
        .drv .dio true, .dly, .drv .clk true, .dly, .drv .clk false, .drv .dio false, .dly, .drv .clk true, .dly,
        .drv .clk false, .drv .dio false, .dly, .drv .clk true, .dly, .drv .clk false, .drv .dio false, .dly,
        .drv .clk true, .dly, .drv .clk false, .drv .dio true, .dly, .drv .clk true, .dly, .drv .clk false,
        .dir .dio .input, .dly, .rd .dio false, .dly, .drv .clk true, .dly, .drv .clk false, .dir .dio .output]
      && t.wtrace == [.byte 0x8F#8 false] && t.lvl == ⟨false, true⟩ && t.ackQ == false && t.fstate == .framed
      && t.res == 0x00#8 && !t.viol) = true := by decide +kernel
theorem test_wrByte_before_init : after (.wrByte 0x12#8) { State.resetWith Config.vectors with oracle := .absent } (fun t =>
    t.reasons == [.notInitialised, .byteOutsideFrame] && t.fstate == .idle && t.dir == ⟨.input, .output⟩
      && t.res == 0x01#8 && t.wtrace == [.byte 0x12#8 true]) = true := by decide +kernel
theorem test_stop : after .stop { ready .acking with fstate := .framed, lvl := ⟨false, true⟩ } (fun t =>
    t.ltrace == [.drv .clk false, .dly, .drv .dio false, .dly, .drv .clk true, .dly, .drv .dio true]
      && t.wtrace == [.stop] && t.lvl == ⟨true, true⟩ && t.fstate == .idle && !t.viol) = true := by decide +kernel
theorem test_stop_outside_frame : after .stop (ready .acking) (fun t =>
    t.reasons == [.stopOutsideFrame] && t.wtrace == [.stop] && t.fstate == .idle) = true := by decide +kernel
theorem test_command : after (.command 0x44#8) (ready .acking) (fun t =>
    lineEventCount t.ltrace == 37 && delayCount t.ltrace == 23
      && t.wtrace == [.start, .byte 0x44#8 false, .stop] && t.lvl == ⟨true, true⟩ && t.ackQ == false
      && wireDecode (receiverOf (ready .acking)) t.ltrace == [.start, .byte 0x44#8, .stop]) = true := by decide +kernel
theorem test_command_absent_chip : after (.command 0x44#8) (ready .absent) (fun t =>
    t.res == 0x00#8 && t.ackQ == true && t.wtrace == [.start, .byte 0x44#8 true, .stop]) = true := by decide +kernel

/-! Display state: V20 to V31 -/

theorem test_wrSeg : after (.wrSeg 6#8 0x3F#8) (ready .acking) (fun t =>
    t.buf == ⟨0x00#8, 0x00#8, 0x3F#8, 0x00#8⟩
      && withoutSamples t.wtrace ==
        [.start, .byte 0x44#8, .stop, .start, .byte 0xC2#8, .byte 0x3F#8, .stop, .start, .byte 0x8F#8, .stop]) = true := by
  decide +kernel
theorem test_wrSeg_suppressed :
    after (.wrSeg 1#8 0x07#8) { ready .acking with colon := true, buf := ⟨0x00#8, 0x87#8, 0x00#8, 0x00#8⟩ } (fun t =>
      t.buf == ⟨0x00#8, 0x87#8, 0x00#8, 0x00#8⟩ && withoutSamples t.wtrace == [.start, .byte 0x8F#8, .stop]) = true := by
  decide +kernel
theorem test_setColon :
    after (.setColon true) { ready .acking with colon := true, buf := ⟨0x00#8, 0xDB#8, 0x00#8, 0x00#8⟩ } (fun t =>
      t.colon && t.buf.p1 == 0xDB#8
        && withoutSamples t.wtrace ==
          [.start, .byte 0x44#8, .stop, .start, .byte 0xC1#8, .byte 0xDB#8, .stop, .start, .byte 0x8F#8, .stop]) = true := by
  decide +kernel
theorem test_setColon_off :
    after (.setColon false) { ready .acking with colon := true, buf := ⟨0x00#8, 0xDB#8, 0x00#8, 0x00#8⟩ } (fun t =>
      !t.colon && t.buf.p1 == 0x5B#8) = true := by decide +kernel
theorem test_setBrt : after (.setBrt 0xFA#8) (ready .acking) (fun t =>
    t.brightness == 2#3 && withoutSamples t.wtrace == [.start, .byte 0x8A#8, .stop]) = true := by decide +kernel
theorem test_setEn : after (.setEn false) { ready .acking with brightness := 2#3 } (fun t =>
    !t.enabled && withoutSamples t.wtrace == [.start, .byte 0x82#8, .stop]) = true := by decide +kernel
theorem test_clear :
    after .clear
      { ready .acking with
        colon := true, brightness := 2#3, enabled := false, buf := ⟨0x00#8, 0x87#8, 0x00#8, 0x00#8⟩ }
      (fun t =>
        !t.colon && t.buf == ⟨0x00#8, 0x00#8, 0x00#8, 0x00#8⟩ && byteCount t.wtrace == 11 && t.brightness == 2#3
          && (withoutSamples t.wtrace).take 13 ==
            [.start, .byte 0x44#8, .stop, .start, .byte 0xC1#8, .byte 0x07#8, .stop, .start, .byte 0x82#8, .stop,
              .start, .byte 0x82#8, .stop]) = true := by decide +kernel
theorem test_init :
    after (.init 1#8 2#8)
      { State.resetWith { Config.vectors with bufReset := ⟨0x11#8, 0x80#8, 0x00#8, 0x7F#8⟩ } with oracle := .acking }
      (fun t =>
        t.clkPin == 1#8 && t.dioPin == 2#8 && t.dir == ⟨.output, .output⟩ && t.inited && !t.viol
          && byteCount t.wtrace == 14 && frameCount t.wtrace == 11 && t.buf == ⟨0x00#8, 0x00#8, 0x00#8, 0x00#8⟩) = true := by decide +kernel
theorem test_init_again :
    after (.init 2#8 1#8)
      { ready .acking with colon := true, brightness := 3#3, buf := ⟨0x06#8, 0xDB#8, 0x4F#8, 0x66#8⟩ }
      (fun t =>
        t.clkPin == 2#8 && t.brightness == 7#3 && byteCount t.wtrace == 20 && t.buf.p1 == 0x00#8 && !t.colon) = true :=
  by decide +kernel
theorem test_dispDigit : after (.dispDigit 0#8 5#8) (ready .acking) (fun t =>
    t.buf == ⟨0x6D#8, 0x00#8, 0x00#8, 0x00#8⟩
      && withoutSamples t.wtrace ==
        [.start, .byte 0x44#8, .stop, .start, .byte 0xC0#8, .byte 0x6D#8, .stop, .start, .byte 0x8F#8, .stop]) = true := by
  decide +kernel
theorem test_dispDigit_with_colon : after (.dispDigit 5#8 7#8) { ready .absent with colon := true } (fun t =>
    t.buf.p1 == 0x87#8 && t.ackQ == true && t.res == 0x00#8) = true := by decide +kernel

/-! Encoder: V40, V41 -/

theorem test_dig2Seg : after (.dig2Seg 5#8) (ready .acking) (fun t =>
    t.res == 0x6D#8 && t.ltrace == [] && t.wtrace == [] && t.fstate == .idle) = true := by decide +kernel
theorem test_dig2Seg_blank : after (.dig2Seg 10#8) (ready .acking) (fun t => t.res == 0x00#8) = true := by decide +kernel
theorem test_chr2Seg : after (.chr2Seg 0x42#8) (ready .acking) (fun t => t.res == 0x7C#8) = true := by decide +kernel
theorem test_chr2Seg_edges :
    after (.chr2Seg 0x39#8) (ready .acking) (fun t => t.res == 0x6F#8) = true
      ∧ after (.chr2Seg 0x3A#8) (ready .acking) (fun t => t.res == 0x00#8) = true
      ∧ after (.chr2Seg 0x2F#8) (ready .acking) (fun t => t.res == 0x00#8) = true := by decide +kernel

/-! Wire bytes: X10, V8 -/

theorem test_wireDataCmd : after (.wireDataCmd true) (opened .acking) (fun t =>
    t.wtrace == [.byte 0x44#8 false] && t.lvl == ⟨false, false⟩) = true := by decide +kernel
theorem test_wireAddrCmd : after (.wireAddrCmd 3#2) (opened .acking) (fun t =>
    t.wtrace == [.byte 0xC3#8 false] && t.lvl == ⟨false, true⟩) = true := by decide +kernel
theorem test_wireCtrlCmd : after (.wireCtrlCmd true 7#3) (opened .absent) (fun t =>
    t.wtrace == [.byte 0x8F#8 true] && t.res == 0x01#8) = true := by decide +kernel
theorem test_wireSegByte : after (.wireSegByte true 0x5B#7) (opened .acking) (fun t =>
    t.wtrace == [.byte 0xDB#8 false] && t.fstate == .framed) = true := by decide +kernel

/-! The step, the micro-sequencer and the host's names -/

theorem test_step_refuses_reserved : step (presenting [.cmd 0x420000#24]) = .refused (.reservedOpcode 0x42#8) := rfl
theorem test_step_refuses_no_command :
    step (presenting [.wire .command 0x20#8]) = .refused (.noWireCommand 0x20#8) := rfl
theorem test_step_takes_one_word : afterStep (presenting [.cmd 0x400005#24, .cmd 0x400009#24]) (fun t =>
    t.res == 0x6D#8 && t.pending == [.cmd 0x400009#24]) = true := by decide +kernel
theorem test_placed_word : afterStep ((ready .acking).withFetchWord 24 0x3200FA) (fun t => t.brightness == 2#3) = true := by
  decide +kernel
theorem test_micro_steps :
    (begin .start (ready .acking)).busy = true ∧ (begin .start (ready .acking)).useq = some 0
      ∧ (microSteps 3 (begin .start (ready .acking))).useq = some 3
      ∧ (microSteps 3 (begin .start (ready .acking))).ltrace = [.drv .dio true, .drv .clk true, .dly]
      ∧ (microSteps 4 (begin .start (ready .acking))).busy = false
      ∧ (microSteps 4 (begin .start (ready .acking))).fstate = .framed := by decide +kernel
theorem test_init_opens_with_the_directions :
    (microSteps 4 (begin (.init 1#8 2#8) (State.resetWith Config.vectors))).ltrace =
      [.dir .clk .output, .dly, .dir .dio .output, .dly] := by decide +kernel
theorem test_compose :
    compose 1#2 0x5B#8 true = 0xDB#8 ∧ compose 1#2 0x5B#8 false = 0x5B#8 ∧ compose 0#2 0x5B#8 true = 0x5B#8
      ∧ compose 2#2 0x80#8 false = 0x80#8 ∧ compose 1#2 0x00#8 true = 0x80#8 := by decide
theorem test_scroll_frames :
    scrollFrames Config.vectors [0x35#8] =
      [⟨0x00#8, 0x00#8, 0x00#8, 0x6D#8⟩, ⟨0x00#8, 0x00#8, 0x6D#8, 0x00#8⟩, ⟨0x00#8, 0x6D#8, 0x00#8, 0x00#8⟩,
        ⟨0x6D#8, 0x00#8, 0x00#8, 0x00#8⟩, ⟨0x00#8, 0x00#8, 0x00#8, 0x00#8⟩] := by decide +kernel
theorem test_host_names :
    issued (hostBlank 2#8) = [.dispDigit 2#8 0xFF#8] ∧ issued hostOff = [.setEn false]
      ∧ issued hostOn = [.setEn true] := by decide

/-! Witnesses: for each statement with hypotheses, operands and a state that meet them, each clause at an edge of its
range -/

/-- `busy` in the middle of a START. -/
def running : State := microSteps 2 (begin .start { ready .acking with viol := true, reasons := [.samePin] })

theorem witness_opcodeSelects :
    (0x100000#24).extractLsb' 16 8 = 0x10#8 ∧ (0x11FFFF#24).extractLsb' 16 8 = 0x11#8
      ∧ (0x12FF00#24).extractLsb' 16 8 = 0x12#8 ∧ (0x20ABCD#24).extractLsb' 16 8 = 0x20#8
      ∧ (0x210044#24).extractLsb' 16 8 = 0x21#8 ∧ (0x220000#24).extractLsb' 16 8 = 0x22#8
      ∧ (0x2300FF#24).extractLsb' 16 8 = 0x23#8 ∧ (0x320008#24).extractLsb' 16 8 = 0x32#8
      ∧ (0x33FE00#24).extractLsb' 16 8 = 0x33#8 ∧ (0x34FFFF#24).extractLsb' 16 8 = 0x34#8
      ∧ (0x36FFFF#24).extractLsb' 16 8 = 0x36#8 ∧ (0x40FF00#24).extractLsb' 16 8 = 0x40#8
      ∧ (0x4100FF#24).extractLsb' 16 8 = 0x41#8 := by decide
theorem witness_UnusedOperandBitsIgnored :
    decode (.cmd 0x31FF77#24) = .ok (.setColon true) ∧ usedBits ((0x31FF77#24).extractLsb' 16 8) = some 0xFF0100#24
      ∧ 0x310100#24 &&& 0xFF0100#24 = 0x31FF77#24 &&& 0xFF0100#24
      ∧ decode (.wire .command 0x8F#8) = .ok (.wireCtrlCmd true 7#3)
      ∧ decode (.wire .segment 0x8F#8) = .ok (.wireSegByte true 0x0F#7) := by decide
theorem witness_ReservedOpcodesRefused :
    (presenting [.cmd 0x0FFFFF#24]).busy = false
      ∧ (presenting [.cmd 0x0FFFFF#24]).pending = [.cmd 0x0FFFFF#24] := by decide
theorem witness_isReserved_at_the_edges :
    (∀ op ∈ [0x00#8, 0x0F#8, 0x14#8, 0x1F#8, 0x24#8, 0x2F#8, 0x37#8, 0x3F#8, 0x42#8, 0xFF#8], isReserved op)
      ∧ ∀ op ∈ [0x10#8, 0x13#8, 0x20#8, 0x23#8, 0x30#8, 0x36#8, 0x40#8, 0x41#8], ¬ isReserved op := by decide
theorem witness_WireBytesAreThePatterns :
    decode (.wire .command 0x40#8) = .ok (.wireDataCmd false) ∧ decode (.wire .command 0xC3#8) = .ok (.wireAddrCmd 3#2)
      ∧ decode (.wire .command 0x80#8) = .ok (.wireCtrlCmd false 0#3) := by decide
theorem witness_StepRunsDecodedOperation :
    (presenting [.cmd 0x210044#24]).busy = false ∧ (presenting [.cmd 0x210044#24]).pending = [.cmd 0x210044#24]
      ∧ decode (.cmd 0x210044#24) = .ok (.wrByte 0x44#8) := by decide
theorem witness_PlacedWordIsRun :
    decodeTableWord 24 0x340000 = some .clear ∧ decodeTableWord 8 0xC3 = some (.wireAddrCmd 3#2) := by decide
theorem witness_NoWordNoChange : (presenting []).busy = false ∧ (presenting []).pending = [] := by decide
theorem witness_WordsPresentedWhileBusyHaveNoEffect : running.busy = true := by decide +kernel
theorem witness_OnlyInitAndEncoderAreCleanAfterReset :
    (∃ t, exec (.init 1#8 2#8) State.reset = .next t) ∧ (∃ t, exec (.init 3#8 3#8) State.reset = .next t)
      ∧ (∃ t, exec (.dig2Seg 0#8) State.reset = .next t) ∧ (∃ t, exec (.chr2Seg 0#8) State.reset = .next t)
      ∧ ∃ t, exec .start State.reset = .next t :=
  ⟨⟨_, rfl⟩, ⟨_, rfl⟩, ⟨_, rfl⟩, ⟨_, rfl⟩, ⟨_, rfl⟩⟩
theorem witness_NamedOraclesAnswer :
    (ready .acking).oracle = .acking ∧ (ready .absent).oracle = .absent
      ∧ (ready (.script [true, false])).oracle = .script [true, false]
      ∧ [true, false][(ready (.script [true, false])).reads]? = some true
      ∧ [true, false][({ ready (.script [true, false]) with reads := 1 } : State).reads]? = some false := by decide
theorem witness_StartOpensAFrame :
    (ready .acking).cfg.raiseOrder = .dioFirst
      ∧ ({ Config.vectors with raiseOrder := .clkFirst } : Config).raiseOrder = .clkFirst
      ∧ ({ Config.vectors with raiseOrder := .both } : Config).raiseOrder = .both
      ∧ (opened .acking).fstate ≠ .idle := by decide
theorem witness_WriteByteSendsBitsAndSamplesAck : (ready .acking).fstate = .idle := by decide
theorem witness_StopClosesTheFrame : (ready .acking).fstate = .idle := by decide
theorem witness_CommandSendsOneByteFrame : (opened .acking).fstate ≠ .idle := by decide
theorem witness_WireBytesAreFramedOut :
    encode (.wireDataCmd true) = .wire .command 0x44#8 ∧ encode (.wireAddrCmd 0#2) = .wire .command 0xC0#8
      ∧ encode (.wireCtrlCmd true 7#3) = .wire .command 0x8F#8
      ∧ encode (.wireSegByte true 0x7F#7) = .wire .segment 0xFF#8 := by decide
theorem witness_ReasonsRecorded :
    after .start (opened .acking) (fun t => t.reasons == [.startInOpenFrame]) = true
      ∧ after (.wrByte 0xAA#8) (ready .acking) (fun t => t.reasons == [.byteOutsideFrame]) = true
      ∧ after (.wireDataCmd true) (ready .acking) (fun t => t.reasons == [.byteOutsideFrame]) = true
      ∧ after .stop (ready .acking) (fun t => t.reasons == [.stopOutsideFrame]) = true
      ∧ after (.read .clk) (State.resetWith Config.vectors) (fun t => t.reasons == [.notInitialised]) = true
      ∧ after (.init 3#8 3#8) (opened .acking) (fun t => t.reasons == [.samePin]) = true
      ∧ after (.setDir .clk .output) (ready .acking) (fun t => t.reasons == [.rawLineOp]) = true := by decide +kernel
theorem witness_WriteSegmentEffect :
    (1#2 : Pos) = (0x05#8).extractLsb' 0 2 ∧ (3#2 : Pos) = (0xFF#8).extractLsb' 0 2
      ∧ (0x87#8 : Byte) = (if (1#2 : Pos) = 1#2 ∧ ({ ready .acking with colon := true } : State).colon = true
        then 0x07#8 ||| 0x80#8 else 0x07#8)
      ∧ (0x07#8 : Byte) = (if (3#2 : Pos) = 1#2 ∧ (ready .acking).colon = true then 0x07#8 ||| 0x80#8 else 0x07#8) := by
  decide
theorem witness_SetColonRewritesPositionOne :
    (0x80#8 : Byte) = (((ready .acking).buf.get 1#2 &&& 0x7F#8) ||| if true then 0x80#8 else 0x00#8)
      ∧ (0x00#8 : Byte) = (((ready .acking).buf.get 1#2 &&& 0x7F#8) ||| if false then 0x80#8 else 0x00#8) := by decide
theorem witness_ColonOnOffOnRewritesThrice :
    (0x5B#8 : Byte) = (⟨0x00#8, 0xDB#8, 0x00#8, 0x00#8⟩ : Cells).get 1#2 &&& 0x7F#8 := by decide
theorem witness_RepeatedWriteIsSuppressed : (0x02#8).extractLsb' 0 2 = (0xFE#8).extractLsb' 0 2 := by decide
theorem witness_TrafficCounts :
    (∃ t, exec (.wrSeg 0#8 0x3F#8) (ready .acking) = .next t)
      ∧ 1 = (if compose (position 0#8) 0x3F#8 (ready .acking).colon = (ready .acking).buf.get (position 0#8) then 0 else 1)
      ∧ 0 = (if compose (position 3#8) 0x00#8 (ready .acking).colon = (ready .acking).buf.get (position 3#8) then 0 else 1)
      ∧ (∃ t, exec (.dispDigit 0#8 5#8) (ready .acking) = .next t)
      ∧ (1 = if compose (position 0#8) (digitSegments (ready .acking).cfg.digitLut 5#8) (ready .acking).colon
          = (ready .acking).buf.get (position 0#8) then 0 else 1)
      ∧ (∃ t, exec (.setColon true) (ready .acking) = .next t) ∧ (∃ t, exec (.setBrt 8#8) (ready .acking) = .next t)
      ∧ (∃ t, exec (.setEn false) (ready .acking) = .next t) ∧ (∃ t, exec .clear (ready .acking) = .next t)
      ∧ (∃ t, exec (.init 1#8 2#8) (ready .acking) = .next t) ∧ 0 = clearCount (ready .acking).buf
      ∧ 4 = clearCount ⟨0x06#8, 0xDB#8, 0x4F#8, 0x66#8⟩ ∧ 0 = clearCount ⟨0x00#8, 0x80#8, 0x00#8, 0x00#8⟩ :=
  ⟨⟨_, rfl⟩, by decide, by decide, ⟨_, rfl⟩, by decide, ⟨_, rfl⟩, ⟨_, rfl⟩, ⟨_, rfl⟩, ⟨_, rfl⟩, ⟨_, rfl⟩, by decide,
    by decide, by decide⟩
theorem witness_DigitToSegments : 9#8 < 10#8 ∧ 9#8 < 0xFF#8 ∧ ¬ 9#8 < 9#8 := by decide
theorem witness_CharToSegments :
    (0x30#8 ≤ 0x30#8 ∧ 0x30#8 ≤ 0x39#8) ∧ (0x30#8 ≤ 0x39#8 ∧ 0x39#8 ≤ 0x39#8)
      ∧ ¬ (0x30#8 ≤ 0x2F#8 ∧ 0x2F#8 ≤ 0x39#8) ∧ ¬ (0x30#8 ≤ 0x3A#8 ∧ 0x3A#8 ≤ 0x39#8)
      ∧ ((ready .acking).cfg.charMap.map Prod.fst).Nodup ∧ (0x42#8, 0x7C#7) ∈ (ready .acking).cfg.charMap
      ∧ ∀ e ∈ (ready .acking).cfg.charMap, e.1 ≠ 0x2F#8 :=
  ⟨by decide, by decide, by decide, by decide, by decide, by simp [ready, State.resetWith, Config.vectors],
    by simp [ready, State.resetWith, Config.vectors]⟩
theorem witness_EncodersShareTheDigits : (0#8 : Byte) ≤ 9#8 ∧ (9#8 : Byte) ≤ 9#8 := by decide
theorem witness_WriteSets :
    (∃ t, exec (.read .dio) (ready .acking) = .next t) ∧ (∃ t, exec (.setDir .dio .input) (ready .acking) = .next t)
      ∧ (∃ t, exec (.setDir .clk .input) (ready .acking) = .next t) ∧ (∃ t, exec (.drvh .clk) (ready .acking) = .next t)
      ∧ (∃ t, exec (.drvl .dio) (ready .acking) = .next t) ∧ Line.clk ≠ .dio ∧ Line.dio ≠ .clk
      ∧ (∃ t, exec .start (ready .acking) = .next t) ∧ (∃ t, exec .stop (ready .acking) = .next t)
      ∧ (∃ t, exec (.dig2Seg 0#8) (ready .acking) = .next t) ∧ ∃ t, exec (.chr2Seg 0#8) (ready .acking) = .next t :=
  ⟨⟨_, rfl⟩, ⟨_, rfl⟩, ⟨_, rfl⟩, ⟨_, rfl⟩, ⟨_, rfl⟩, by decide, by decide, ⟨_, rfl⟩, ⟨_, rfl⟩, ⟨_, rfl⟩, ⟨_, rfl⟩⟩
theorem witness_RawBytesBypassTheDisplayState :
    ∀ i ∈ ([.start, .wrByte 0xC2#8, .wrByte 0x7F#8, .stop, .command 0x8F#8] : List Instr),
      i = .start ∨ i = .stop ∨ (∃ v, i = .wrByte v) ∨ ∃ v, i = .command v := by simp
theorem witness_ColonBitElsewhereIsTheHosts :
    after (.wrSeg 0#8 0x80#8) (ready .acking) (fun t => (t.buf.get 0#2)[7]) = true ∧ (0#2 : Pos) ≠ 1#2 := by
  decide +kernel
theorem witness_QuietStateIsKept :
    (presenting [.cmd 0x200000#24]).isQuiet ∧ (presenting [.cmd 0x200000#24]).ghostAgrees
      ∧ (∃ t, step (presenting [.cmd 0x200000#24]) = .next t)
      ∧ (opened .acking).isQuiet ∧ ({ ready .acking with viol := true, reasons := [.samePin] } : State).ghostAgrees :=
  ⟨by decide, by decide, ⟨_, rfl⟩, by decide, by decide⟩
theorem witness_ViolationIsSticky :
    (∃ t, step running = .next t) ∧ running.viol = true ∧ Reason.samePin ∈ running.reasons :=
  ⟨⟨microStep running, by
    have hb : running.busy = true := by decide +kernel
    simp [step, nextAction, hb, proceed]⟩, by decide +kernel, by decide +kernel⟩
theorem witness_TracesOnlyGrow : ∃ t, step (presenting [.cmd 0x200000#24]) = .next t := ⟨_, rfl⟩
theorem witness_FrameSafeOperationsSendWholeFrames :
    Instr.isFrameSafe (.command 0x12#8) ∧ Instr.isFrameSafe .clear ∧ Instr.isPublic .clear ∧ (ready .acking).isParked := by
  decide
theorem witness_ContractKeepingHostNeverViolates :
    (1#8 : Byte) ≠ 2#8 ∧ (State.resetWith Config.vectors).viol = false
      ∧ ∀ i ∈ ([.command 0x40#8, .wrSeg 1#8 0xFF#8, .init 2#8 1#8, .clear] : List Instr), Instr.keepsContract i := by
  refine ⟨by decide, by decide, ?_⟩
  simp [Instr.keepsContract, Instr.isFrameSafe, Instr.level, Instr.pinsDiffer]
theorem witness_OracleNeverSteersTheEngine : (ready .acking).sameButAnswers (ready .absent) := rfl
theorem witness_MicroSequencerRefinesOperations :
    (ready .acking).prog = [] ∧ 4 = microCount (scriptOf .start (accept (ready .acking))).1
      ∧ 0 = microCount (scriptOf (.dig2Seg 5#8) (accept (ready .acking))).1
      ∧ 60 = microCount (scriptOf (.command 0x44#8) (accept (ready .acking))).1 := by decide +kernel
theorem witness_AtMost1149MicroSteps : (ready .acking).prog = [] ∧ (opened .absent).prog = [] := by decide
theorem witness_TransmittingAndTurnAround :
    (opened .acking).dir.dio = .output ∧ 1 ≤ 1 ∧ 1 < 49 ∧ ¬ 42 ≤ 41 ∧ 42 ≤ 42 ∧ 48 < 49 := by decide
theorem witness_CacheMirrorsWhatWasSent :
    ∀ i ∈ ([.command 0x44#8, .wrSeg 2#8 0x3F#8, .clear] : List Instr), Instr.isFrameSafe i := by decide
theorem witness_DecodedWireEqualsWireTrace :
    (opened .acking).dir = ⟨.output, .output⟩
      ∧ (∀ i ∈ ([.read .clk, .stop, .start, .start, .init 1#8 2#8, .wireSegByte true 5#7] : List Instr),
          Instr.leavesLinesToEngine i = true)
      ∧ (opened .acking).startIsMarked = true ∧ (ready .acking).startIsMarked = false := by decide
theorem witness_ScrollShiftsThroughTheWindow :
    [0x6D#8, 0x00#8, 0x00#8, 0x00#8, 0x00#8] =
        [0x35#8].map (charSegments Config.vectors) ++ [0x00#8, 0x00#8, 0x00#8, 0x00#8]
      ∧ (scrollFrames Config.vectors [0x35#8])[0]? = some ⟨0x00#8, 0x00#8, 0x00#8, 0x6D#8⟩
      ∧ (scrollFrames Config.vectors [0x35#8])[4]? = some ⟨0x00#8, 0x00#8, 0x00#8, 0x00#8⟩ := by decide +kernel

end Sys2Proof.Tests
end

section
/-! The raw line operations DRVH, DRVL and SETDIR (40_line_transport.md R122 to R124): the operation an opcode selects,
and the whole effect of the drive and of the change of direction, the ghost record included. -/

namespace Sys2Proof.Machine

/-- The decoder reads nothing of a command word but its three bytes, so an arm of `decodeFields` says what its opcode
selects (30_encoding.md R90, R91). -/
theorem opcodeSelects_of_decodeFields {op : Byte} {f : Byte → Byte → Instr}
    (h : ∀ a b, decodeFields op a b = .ok (f a b)) : opcodeSelects op f := by
  rintro w rfl
  exact h (aField w) (bField w)

theorem State.sameButGhost.trans {s t u : State} (h : s.sameButGhost t) (g : t.sameButGhost u) : s.sameButGhost u :=
  Eq.trans h (by rw [g])

theorem violation_sameButGhost (r : Reason) (s : State) : (violation r s).sameButGhost s := rfl

/-- R236: a check changes nothing but the ghost record, whether it fails or not. -/
theorem violateIf_sameButGhost (c : Bool) (r : Reason) (s : State) : (violateIf c r s).sameButGhost s := by
  cases c
  · rfl
  · exact violation_sameButGhost r s

/-- R127, R236: the two ghost checks before a raw line operation change nothing but the ghost record. -/
theorem rawLineChecks_sameButGhost (s : State) : (violation .rawLineOp (checkInit s)).sameButGhost s :=
  (violation_sameButGhost _ _).trans (violateIf_sameButGhost _ _ s)

/-- R121, R122, R123: all that driving a line does as a host operation. -/
theorem operate_drive (l : Line) (b : Bit) (s : State) :
    operate (perform [.checkInit, .violateRaw, .drv l b, .dly, .result 0x00#8]) s =
      { violation .rawLineOp (checkInit s) with
        lvl := s.lvl.set l b, busy := false, useq := none
        ltrace := s.ltrace ++ [.drv l b, .dly], res := 0x00#8 } := by
  cases h : s.inited <;>
    simp [operate, run, checkInit, violateIf, violation, accept, drive, emitL, advance, complete, h]

/-- R121, R124: all that SETDIR does. -/
theorem operate_setDirScript (l : Line) (d : Dir) (s : State) :
    operate (setDirScript l d) s =
      { violation .rawLineOp (checkInit s) with
        dir := s.dir.set l d, busy := false, useq := none
        ltrace := s.ltrace ++ [.dir l d, .dly], res := 0x00#8 } := by
  cases h : s.inited <;>
    simp [operate, setDirScript, run, checkInit, violateIf, violation, accept, direct, emitL, advance, complete, h]

/-- R122, R123: up to the ghost record, driving a line writes one latch, two events and the result. -/
theorem operate_drive_sameButGhost (l : Line) (b : Bit) (s : State) :
    (operate (perform [.checkInit, .violateRaw, .drv l b, .dly, .result 0x00#8]) s).sameButGhost
      { s with
        lvl := s.lvl.set l b, busy := false, useq := none
        ltrace := s.ltrace ++ [.drv l b, .dly], res := 0x00#8 } := by
  rw [operate_drive, rawLineChecks_sameButGhost s]

/-- R124: up to the ghost record, SETDIR writes one direction, two events and the result. -/
theorem operate_setDirScript_sameButGhost (l : Line) (d : Dir) (s : State) :
    (operate (setDirScript l d) s).sameButGhost
      { s with
        dir := s.dir.set l d, busy := false, useq := none
        ltrace := s.ltrace ++ [.dir l d, .dly], res := 0x00#8 } := by
  rw [operate_setDirScript, rawLineChecks_sameButGhost s]

end Sys2Proof.Machine

open Sys2Proof Sys2Proof.Machine

/-- Settles O13: each opcode decodes to its drive, and DRVH and DRVL are the same script but for the level. -/
theorem driveWritesOneLatch : Obligations.DriveWritesOneLatch := by
  refine ⟨opcodeSelects_of_decodeFields fun _ _ => rfl, opcodeSelects_of_decodeFields fun _ _ => rfl,
    fun l s => ⟨?_, ?_⟩⟩
  · exact ⟨_, exec_eq_operate (.drvh l) s, operate_drive_sameButGhost l true s⟩
  · exact ⟨_, exec_eq_operate (.drvl l) s, operate_drive_sameButGhost l false s⟩

/-- Settles O14: the opcode decodes to SETDIR, whose script writes one direction and no latch. -/
theorem setDirWritesOneDirection : Obligations.SetDirWritesOneDirection := by
  refine ⟨opcodeSelects_of_decodeFields fun _ _ => rfl, fun l d s => ?_⟩
  exact ⟨_, exec_eq_operate (.setDir l d) s, operate_setDirScript_sameButGhost l d s⟩

end

section
/-! The frame protocol (41_frame_protocol.md R143 to R150): the counts of the waveforms, a host operation of the frame
layer from its body, and the whole effect of START, STOP and COMMAND as host operations, the ghost record included. -/

namespace Sys2Proof.Machine

/-! Line events and delays of the waveforms (R187, R280) -/

@[simp] theorem lineEventCount_append (a b : List Event) :
    lineEventCount (a ++ b) = lineEventCount a + lineEventCount b := by
  simp [lineEventCount, functional_append]

@[simp] theorem delayCount_append (a b : List Event) : delayCount (a ++ b) = delayCount a + delayCount b :=
  List.countP_append

@[simp] theorem lineEventCount_bitWave (b : Bit) : lineEventCount (bitWave b) = 3 := rfl
@[simp] theorem delayCount_bitWave (b : Bit) : delayCount (bitWave b) = 2 := rfl
@[simp] theorem lineEventCount_ackWave (a : Bit) : lineEventCount (ackWave a) = 6 := rfl
@[simp] theorem delayCount_ackWave (a : Bit) : delayCount (ackWave a) = 3 := rfl
@[simp] theorem lineEventCount_stopWave : lineEventCount stopWave = 4 := rfl
@[simp] theorem delayCount_stopWave : delayCount stopWave = 3 := rfl

/-- R142: the order of the raises does not change how many line events START makes. -/
@[simp] theorem lineEventCount_startWave (d : Bool) : lineEventCount (startWave d) = 3 := by cases d <;> rfl
@[simp] theorem delayCount_startWave (d : Bool) : delayCount (startWave d) = 1 := by cases d <;> rfl

@[simp] theorem lineEventCount_bitsWave (v : Byte) : lineEventCount (bitsWave v) = 24 := by simp [bitsWave]
@[simp] theorem delayCount_bitsWave (v : Byte) : delayCount (bitsWave v) = 16 := by simp [bitsWave]
@[simp] theorem lineEventCount_byteWave (v : Byte) (a : Bit) : lineEventCount (byteWave v a) = 24 + 6 := by
  simp [byteWave]
@[simp] theorem delayCount_byteWave (v : Byte) (a : Bit) : delayCount (byteWave v a) = 16 + 3 := by simp [byteWave]

theorem lineEventCount_commandWave (d : Bool) (v : Byte) (a : Bit) : lineEventCount (commandWave d v a) = 37 := by
  simp [commandWave]

theorem delayCount_commandWave (d : Bool) (v : Byte) (a : Bit) : delayCount (commandWave d v a) = 23 := by
  simp [commandWave]

/-- R145: bit `i` is sent by the five micro-steps that begin at index `5 * i`. -/
theorem drop_bitsWave (v : Byte) (i : Fin 8) :
    (bitsWave v).drop (5 * i) = bitWave v[i] ++ (bitsWave v).drop (5 * i + 5) := by
  fin_cases i <;> rfl

/-! The ghost checks -/

/-- A check that fails sets the ghost flag and records its reason. -/
theorem violateIf_true_records (r : Reason) (s : State) :
    (violateIf true r s).viol = true ∧ r ∈ (violateIf true r s).reasons :=
  ⟨violation_viol r s, (mem_violateIf_reasons true r r s).2 (.inr ⟨rfl, rfl⟩)⟩

/-- R143: START in an open frame. -/
theorem checkNoFrame_records {s : State} (h : s.fstate ≠ .idle) :
    (checkNoFrame s).viol = true ∧ .startInOpenFrame ∈ (checkNoFrame s).reasons := by
  rw [checkNoFrame, decide_eq_true h]
  exact violateIf_true_records _ s

/-- R144, R149: a byte or a STOP outside a frame. -/
theorem checkFrame_records (r : Reason) {s : State} (h : s.fstate = .idle) :
    (checkFrame r s).viol = true ∧ r ∈ (checkFrame r s).reasons := by
  rw [checkFrame, decide_eq_true h]
  exact violateIf_true_records r s

theorem checkInit_sameButGhost (s : State) : (checkInit s).sameButGhost s := violateIf_sameButGhost _ _ s

theorem checkNoFrame_checkInit_sameButGhost (s : State) : (checkNoFrame (checkInit s)).sameButGhost s :=
  (violateIf_sameButGhost _ _ _).trans (checkInit_sameButGhost s)

theorem checkFrame_checkInit_sameButGhost (r : Reason) (s : State) : (checkFrame r (checkInit s)).sameButGhost s :=
  (violateIf_sameButGhost _ _ _).trans (checkInit_sameButGhost s)

/-- No check reads or writes what accepting an operation writes. -/
theorem violateIf_accept (c : Bool) (r : Reason) (s : State) :
    violateIf c r (accept s) = accept (violateIf c r s) := by cases c <;> rfl

theorem checkInit_accept (s : State) : checkInit (accept s) = accept (checkInit s) := violateIf_accept _ _ s

theorem checkNoFrame_accept (s : State) : checkNoFrame (accept s) = accept (checkNoFrame s) := violateIf_accept _ _ s

theorem checkFrame_accept (r : Reason) (s : State) : checkFrame r (accept s) = accept (checkFrame r s) :=
  violateIf_accept _ _ s

@[simp] theorem checkInit_fstate (s : State) : (checkInit s).fstate = s.fstate := violateIf_fstate _ _ s
@[simp] theorem checkInit_dir (s : State) : (checkInit s).dir = s.dir := violateIf_dir _ _ s
@[simp] theorem checkInit_ltrace (s : State) : (checkInit s).ltrace = s.ltrace := violateIf_ltrace _ _ s
@[simp] theorem checkInit_wtrace (s : State) : (checkInit s).wtrace = s.wtrace := violateIf_wtrace _ _ s
@[simp] theorem checkInit_reads (s : State) : (checkInit s).reads = s.reads := violateIf_reads _ _ s
@[simp] theorem checkInit_starts (s : State) : (checkInit s).starts = s.starts := violateIf_starts _ _ s
@[simp] theorem checkInit_oracle (s : State) : (checkInit s).oracle = s.oracle := violateIf_oracle _ _ s
@[simp] theorem checkInit_cfg (s : State) : (checkInit s).cfg = s.cfg := violateIf_cfg _ _ s

/-- R142: the order of START's raises is settled before the operation's checks. -/
@[simp] theorem dioFirst_accept_checkInit (s : State) : dioFirst (accept (checkInit s)) = dioFirst s := by
  simp [dioFirst]

@[simp] theorem answer_accept_checkInit (s : State) (k : Nat) : (accept (checkInit s)).answer k = s.answer k :=
  answer_congr (checkInit_oracle s) (by simp)

theorem dioFirst_of_dioFirst {s : State} (h : s.cfg.raiseOrder = .dioFirst) : dioFirst s = true := by
  simp [dioFirst, h]

theorem dioFirst_of_clkFirst {s : State} (h : s.cfg.raiseOrder = .clkFirst) : dioFirst s = false := by
  simp [dioFirst, h]

/-! The host operations -/

/-- R92, R93: a host operation of the frame or display layer runs its body after the check, delivers 0x00 and leaves the
engine free. -/
theorem operate_hostOp (f : Script) (s : State) :
    operate (hostOp f) s = { (f (accept (checkInit s))).2 with busy := false, useq := none, res := 0x00#8 } := by
  rw [← checkInit_accept]
  rfl

/-- R143: all that START does as a host operation. -/
theorem operate_startScript (s : State) :
    operate startScript s =
      { checkNoFrame (checkInit s) with
        lvl := ⟨true, false⟩, fstate := .framed, busy := false, useq := none
        ltrace := s.ltrace ++ startWave (dioFirst s)
        wtrace := s.wtrace ++ [.start], starts := s.starts + 1, res := 0x00#8 } := by
  rw [startScript, operate_hostOp, startFrame_state, checkNoFrame_accept]
  simp

/-- R149: all that STOP does as a host operation. -/
theorem operate_stopScript (s : State) :
    operate stopScript s =
      { checkFrame .stopOutsideFrame (checkInit s) with
        lvl := ⟨true, true⟩, fstate := .idle, busy := false, useq := none
        ltrace := s.ltrace ++ stopWave, wtrace := s.wtrace ++ [.stop], res := 0x00#8 } := by
  rw [stopScript, operate_hostOp, stopFrame_state, checkFrame_accept]
  simp

/-- R150: all that COMMAND does as a host operation. -/
theorem operate_commandScript (v : Byte) (s : State) :
    operate (commandScript v) s =
      { checkNoFrame (checkInit s) with
        lvl := ⟨true, true⟩, dir := ⟨s.dir.clk, .output⟩, fstate := .idle
        shreg := 0x00#8, bitcnt := 0#4, busy := false, useq := none
        ackQ := s.answer 0, sample := s.answer 0, reads := s.reads + 1, starts := s.starts + 1
        ltrace := s.ltrace ++ commandWave (dioFirst s) v (s.answer 0)
        wtrace := s.wtrace ++ oneByteFrame v (s.answer 0), res := 0x00#8 } := by
  rw [commandScript, operate_hostOp, sendCommand_state, checkNoFrame_accept]
  simp

/-- R143: START in an open frame is recorded, whatever the check of `inited` recorded before. -/
theorem operate_startScript_records {s : State} (h : s.fstate ≠ .idle) :
    (operate startScript s).viol = true ∧ .startInOpenFrame ∈ (operate startScript s).reasons := by
  rw [operate_startScript]
  exact checkNoFrame_records ((checkInit_fstate s).trans_ne h)

/-- R149: STOP outside a frame is recorded. -/
theorem operate_stopScript_records {s : State} (h : s.fstate = .idle) :
    (operate stopScript s).viol = true ∧ .stopOutsideFrame ∈ (operate stopScript s).reasons := by
  rw [operate_stopScript]
  exact checkFrame_records _ ((checkInit_fstate s).trans h)

/-- R150: COMMAND in an open frame is recorded by its START. -/
theorem operate_commandScript_records (v : Byte) {s : State} (h : s.fstate ≠ .idle) :
    (operate (commandScript v) s).viol = true ∧ .startInOpenFrame ∈ (operate (commandScript v) s).reasons := by
  rw [operate_commandScript]
  exact checkNoFrame_records ((checkInit_fstate s).trans_ne h)

/-- R145: the bit loop is the first thing WRBYTE does on the lines. -/
theorem operate_wrByteScript_ltrace (v : Byte) (s : State) :
    (operate (wrByteScript v) s).ltrace = s.ltrace ++ bitsWave v ++ ackWave (s.answer 0) := by
  rw [operate_wrByteScript, List.append_assoc]
  rfl

end Sys2Proof.Machine

open Sys2Proof Sys2Proof.Machine

/-- Settles O17: the raises that show are those of `dioFirst`, which the parameter fixes but under `both`. -/
theorem startOpensAFrame : Obligations.StartOpensAFrame := by
  refine ⟨opcodeSelects_of_decodeFields fun _ _ => rfl, ?_⟩
  rintro s dioUp clkUp rfl rfl
  refine ⟨_, _, exec_eq_operate .start s, ite_eq_or_eq (dioFirst s = true) _ _,
    fun h => if_pos (dioFirst_of_dioFirst h), fun h => if_neg (by simp [dioFirst_of_clkFirst h]),
    operate_startScript_records, ?_⟩
  change (operate startScript s).sameButGhost _
  rw [operate_startScript, checkNoFrame_checkInit_sameButGhost s, startWave, List.append_assoc]

/-- Settles O18: WRBYTE's waveform begins with the bit loop, whose five-event blocks are the bits in order. -/
theorem bitLoopSendsLowBitFirst : Obligations.BitLoopSendsLowBitFirst := by
  refine ⟨fun v => ⟨lineEventCount_bitsWave v, delayCount_bitsWave v, rfl⟩, fun v s => ?_, drop_bitsWave⟩
  exact ⟨_, _, exec_eq_operate (.wrByte v) s, operate_wrByteScript_ltrace v s⟩

/-- Settles O20: the opcode decodes to STOP, whose effect is `operate_stopScript`. -/
theorem stopClosesTheFrame : Obligations.StopClosesTheFrame := by
  refine ⟨opcodeSelects_of_decodeFields fun _ _ => rfl, fun s => ?_⟩
  refine ⟨_, exec_eq_operate .stop s, operate_stopScript_records, ?_⟩
  change (operate stopScript s).sameButGhost _
  rw [operate_stopScript, checkFrame_checkInit_sameButGhost _ s, stopWave]

/-- Settles O21: the counts are those of START, byte and STOP together; the effect is `operate_commandScript`. -/
theorem commandSendsOneByteFrame : Obligations.CommandSendsOneByteFrame := by
  refine ⟨opcodeSelects_of_decodeFields fun _ _ => rfl,
    fun d v a => ⟨lineEventCount_commandWave d v a, delayCount_commandWave d v a⟩, fun v s => ?_⟩
  refine ⟨_, exec_eq_operate (.command v) s, operate_commandScript_records v, ?_⟩
  change (operate (commandScript v) s).sameButGhost _
  rw [operate_commandScript, checkNoFrame_checkInit_sameButGhost s, oneByteFrame]

end

section
/-! The display layer (42_display_state.md R174, R179, R180, R182, R186): a host operation from its body's traffic, up to
the ghost record; what the checks before a body leave of the display registers; the bytes of CLEAR; and the whole effect
of the operations that write a register and send the control byte. -/

namespace Sys2Proof.Machine

@[simp] theorem checkInit_buf (s : State) : (checkInit s).buf = s.buf := violateIf_buf _ _ s
@[simp] theorem checkInit_colon (s : State) : (checkInit s).colon = s.colon := violateIf_colon _ _ s
@[simp] theorem checkInit_brightness (s : State) : (checkInit s).brightness = s.brightness := violateIf_brightness _ _ s
@[simp] theorem checkInit_enabled (s : State) : (checkInit s).enabled = s.enabled := violateIf_enabled _ _ s

/-- R35: the control byte is settled before the operation's checks. -/
@[simp] theorem accept_ctrl (s : State) : (accept s).ctrl = s.ctrl := rfl

@[simp] theorem checkInit_ctrl (s : State) : (checkInit s).ctrl = s.ctrl := by simp [State.ctrl]

/-- A host operation whose body sends some traffic and writes the buffer and the colon, up to the ghost record. -/
theorem operate_hostOp_sameButGhost {f : Script} {s : State} {tr : List Traffic} {b : Cells} {c : Bool}
    (htr : tr ≠ []) (h : (f (checkInit (accept s))).2 = withDisplay (sent (checkInit (accept s)) tr) b c) :
    (operate (hostOp f) s).sameButGhost { s.afterTraffic tr with buf := b, colon := c } := by
  rw [operate_hostOp_sent htr h]

/-! DISPDIGIT (R186) -/

/-- R186: DISPDIGIT calls WRSEG with the segments of the digit. -/
theorem operate_dispDigitScript (pos digit : Byte) (s : State) :
    operate (dispDigitScript pos digit) s = operate (wrSegScript pos (digitSegments s.cfg.digitLut digit)) s := by
  rw [dispDigitScript, wrSegScript, operate_hostOp, operate_hostOp, reading_apply, accept_cfg, checkInit_cfg]

/-- R174, R93: what WRSEG leaves in the result and in the buffer. -/
theorem operate_wrSegScript_res_buf (pos raw : Byte) (s : State) :
    (operate (wrSegScript pos raw) s).res = 0x00#8
      ∧ (operate (wrSegScript pos raw) s).buf = s.buf.set (position pos) (compose (position pos) raw s.colon) := by
  rw [wrSegScript, operate_hostOp, writeSegment_sent]
  simp

/-! SETBRT and SETEN (R179, R180): COMMAND with the new control byte, once the register is written -/

/-- A register is written, then the control byte is sent: COMMAND of that byte from the state with the register
written. -/
theorem operate_refreshAfter {u : Uop} {s t : State} (h : run u (accept (checkInit s)) = accept (checkInit t)) :
    operate (hostOp (inOrder [perform [u], controlRefresh])) s = operate (commandScript t.ctrl) t := by
  rw [commandScript, operate_hostOp, operate_hostOp]
  simp [h, controlRefresh]

/-- R150: COMMAND is traffic of one byte, up to the ghost record. -/
theorem operate_commandScript_sameButGhost (v : Byte) (s : State) :
    (operate (commandScript v) s).sameButGhost (s.afterTraffic [.single v]) := by
  have h := withDisplay_sent_self (checkInit (accept s)) [.single v]
  rw [checkInit_buf, checkInit_colon] at h
  exact operate_hostOp_sameButGhost (List.cons_ne_nil _ _) ((sendCommand_sent v _).trans h.symm)

/-- No check reads or writes the brightness. -/
theorem run_setBrightness_accept_checkInit (b : BitVec 3) (s : State) :
    run (.setBrightness b) (accept (checkInit s)) = accept (checkInit { s with brightness := b }) := by
  cases h : s.inited <;> simp [run, checkInit, violateIf, violation, accept, h]

/-- No check reads or writes the on-flag. -/
theorem run_setEnabled_accept_checkInit (f : Bool) (s : State) :
    run (.setEnabled f) (accept (checkInit s)) = accept (checkInit { s with enabled := f }) := by
  cases h : s.inited <;> simp [run, checkInit, violateIf, violation, accept, h]

/-- R179: SETBRT, up to the ghost record: the brightness is written, then the control byte is all that is sent. -/
theorem operate_setBrtScript_sameButGhost (v : Byte) (s : State) :
    (operate (setBrtScript v) s).sameButGhost
      { s.afterTraffic [.single (controlByte s.enabled (maskBrightness v))] with brightness := maskBrightness v } := by
  rw [setBrtScript, operate_refreshAfter (run_setBrightness_accept_checkInit _ s)]
  exact operate_commandScript_sameButGhost _ _

/-- R180: SETEN, up to the ghost record: the on-flag is written, then the control byte is all that is sent. -/
theorem operate_setEnScript_sameButGhost (f : Bool) (s : State) :
    (operate (setEnScript f) s).sameButGhost
      { s.afterTraffic [.single (controlByte f s.brightness)] with enabled := f } := by
  rw [setEnScript, operate_refreshAfter (run_setEnabled_accept_checkInit _ s)]
  exact operate_commandScript_sameButGhost _ _

/-- R95: the mask of SETBRT keeps the three bits the register holds. -/
theorem maskBrightness_eq_extractLsb' (v : Byte) : maskBrightness v = v.extractLsb' 0 3 := by
  rw [maskBrightness, BitVec.extractLsb'_and]
  exact BitVec.and_allOnes

/-- R103, R179: zero-extended again, the masked brightness is the value's low three bits. -/
theorem setWidth_maskBrightness (v : Byte) : (maskBrightness v).setWidth 8 = v &&& 0x07#8 := by
  have h : (v &&& 0x07#8).toNat = v.toNat % 8 := Nat.and_two_pow_sub_one_eq_mod v.toNat 3
  apply BitVec.eq_of_toNat_eq
  rw [maskBrightness_eq_extractLsb', h, BitVec.toNat_setWidth, BitVec.extractLsb'_toNat]
  omega

/-! CLEAR (R182) -/

/-- R187: one position of CLEAR sends the control byte, and three bytes more to blank a lit cell. -/
theorem trafficBytes_blankTraffic (p : Pos) (old ctrl : Byte) :
    trafficBytes (blankTraffic p old ctrl) = 1 + 3 * [old].countP fun v => v ≠ 0x00#8 := by
  by_cases h : old = 0x00#8 <;> simp [blankTraffic, trafficBytes, Traffic.bytes, h]

theorem clearTraffic_ne_nil (b : Cells) (ctrl : Byte) : clearTraffic b ctrl ≠ [] := by simp [clearTraffic]

/-- R182: CLEAR sends `8 + 3k` bytes. -/
theorem trafficBytes_clearTraffic (b : Cells) (ctrl : Byte) :
    trafficBytes (clearTraffic b ctrl) = 8 + 3 * clearCount b := by
  have h0 : trafficBytes [.dataWrite 1#2 (b.p1 &&& 0x7F#8), .single ctrl] = 4 := rfl
  simp only [clearTraffic, trafficBytes_append, h0, trafficBytes_blankTraffic, clearCount, List.countP_cons,
    List.countP_nil]
  omega

end Sys2Proof.Machine

open Sys2Proof Sys2Proof.Machine

/-- Settles O25: DISPDIGIT is WRSEG, whose write of the buffer is read back at its own position. -/
theorem displayDigitEffect : Obligations.DisplayDigitEffect := by
  refine ⟨opcodeSelects_of_decodeFields fun _ _ => rfl, fun a d s => ?_⟩
  have h : exec (.dispDigit a d) s = exec (.wrSeg a (digitSegments s.cfg.digitLut d)) s := by
    rw [exec_eq_operate, exec_eq_operate]
    exact congrArg _ (operate_dispDigitScript a d s)
  obtain ⟨hres, hbuf⟩ := operate_wrSegScript_res_buf a (digitSegments s.cfg.digitLut d) s
  refine ⟨h, _, h.trans (exec_eq_operate _ s), hres, ?_⟩
  exact (congrArg (Cells.get · _) hbuf).trans (Cells.get_set_same _ _ _)

/-- Settles O28: the masked value is both what the register holds and what the control byte carries. -/
theorem setBrightnessMasksAndSends : Obligations.SetBrightnessMasksAndSends := by
  refine ⟨opcodeSelects_of_decodeFields fun _ _ => rfl, fun v s => ⟨_, exec_eq_operate (.setBrt v) s, ?_⟩⟩
  rw [← setWidth_maskBrightness, ← maskBrightness_eq_extractLsb']
  exact operate_setBrtScript_sameButGhost v s

/-- Settles O29: the control byte is read after the flag is written. -/
theorem setEnabledSendsOnFlag : Obligations.SetEnabledSendsOnFlag := by
  refine ⟨opcodeSelects_of_decodeFields fun _ _ => rfl, fun f s => ⟨_, exec_eq_operate (.setEn f) s, ?_⟩⟩
  exact operate_setEnScript_sameButGhost f s

/-- Settles O30: `clearDisplay_sent` is the whole of CLEAR, and each lit cell adds the three bytes of its blank. -/
theorem clearBlanksThroughTheCache : Obligations.ClearBlanksThroughTheCache := by
  refine ⟨opcodeSelects_of_decodeFields fun _ _ => rfl, fun s => ?_⟩
  refine ⟨_, exec_eq_operate .clear s, trafficBytes_clearTraffic _ _, ?_⟩
  exact operate_hostOp_sameButGhost (clearTraffic_ne_nil _ _) (by simp [clearDisplay_sent])

end

section
/-! The encoder (43_encoder.md R201 to R206): what the digit table and the character map hold for a byte, and the whole
effect of DIG2SEG and CHR2SEG, which run no check and write the result alone. -/

namespace Sys2Proof.Machine

/-! The tables -/

/-- R202: every pattern of the digit table fits in the seven segment bits. -/
theorem digitSegments_getElem_seven (t : DigitLut) (d : Byte) : (digitSegments t d)[7] = false := by
  unfold digitSegments
  split <;> simp [BitVec.getElem_setWidth]

/-- R201: an out-of-range digit is blank. -/
theorem digitSegments_of_nine_lt (t : DigitLut) {d : Byte} (h : 9#8 < d) : digitSegments t d = 0x00#8 := by
  unfold digitSegments
  split
  case h_11 => rfl
  all_goals exact absurd h (by decide)

/-- R205: in a map that names no code twice, a code's row is the one that is found. -/
theorem mapSegments_of_mem {m : List (Byte × BitVec 7)} {c : Byte} {g : BitVec 7} (hnd : (m.map Prod.fst).Nodup)
    (h : (c, g) ∈ m) : mapSegments m c = g.setWidth 8 := by
  induction m with
  | nil => cases h
  | cons e rest ih =>
    obtain ⟨hnotin, hrest⟩ := List.nodup_cons.mp hnd
    rcases List.mem_cons.mp h with rfl | hmem
    · exact if_pos rfl
    · have hne : e.1 ≠ c := fun heq => hnotin (heq ▸ List.mem_map_of_mem hmem)
      exact (if_neg hne).trans (ih hrest hmem)

/-- R205: a code outside the domain of the map is blank. -/
theorem mapSegments_of_forall_ne {m : List (Byte × BitVec 7)} {c : Byte} (h : ∀ e ∈ m, e.1 ≠ c) :
    mapSegments m c = 0x00#8 := by
  induction m with
  | nil => rfl
  | cons e rest ih =>
    obtain ⟨hne, hrest⟩ := List.forall_mem_cons.mp h
    exact (if_neg hne).trans (ih hrest)

/-- R204: an ASCII digit is read from the digit table. -/
theorem charSegments_of_digit (cfg : Config) {c : Byte} (h : 0x30#8 ≤ c ∧ c ≤ 0x39#8) :
    charSegments cfg c = digitSegments cfg.digitLut (c - 0x30#8) := if_pos h

/-- R204: any other code is looked up in the map. -/
theorem charSegments_of_not_digit (cfg : Config) {c : Byte} (h : ¬ (0x30#8 ≤ c ∧ c ≤ 0x39#8)) :
    charSegments cfg c = mapSegments cfg.charMap c := if_neg h

/-- R206: the code of a digit is an ASCII digit. -/
theorem ascii_of_digit {d : Byte} (h : d ≤ 9#8) : 0x30#8 ≤ 0x30#8 + d ∧ 0x30#8 + d ≤ 0x39#8 := by
  constructor <;> bv_omega

/-! The operations -/

/-- R200, R201: all that DIG2SEG does. -/
theorem exec_dig2Seg (d : Byte) (s : State) :
    exec (.dig2Seg d) s =
      .next { s with busy := false, useq := none, res := digitSegments s.cfg.digitLut d } := rfl

/-- R200, R204: all that CHR2SEG does. -/
theorem exec_chr2Seg (c : Byte) (s : State) :
    exec (.chr2Seg c) s = .next { s with busy := false, useq := none, res := charSegments s.cfg c } := rfl

/-- R204: CHR2SEG of an ASCII digit is DIG2SEG of the digit. -/
theorem exec_chr2Seg_of_digit {c : Byte} (s : State) (h : 0x30#8 ≤ c ∧ c ≤ 0x39#8) :
    exec (.chr2Seg c) s = exec (.dig2Seg (c - 0x30#8)) s := by
  rw [exec_chr2Seg, exec_dig2Seg, charSegments_of_digit s.cfg h]

end Sys2Proof.Machine

open Sys2Proof Sys2Proof.Machine

/-- Settles O34: the result is the digit table's entry, and each row of the table is one equation. -/
theorem digitToSegments : Obligations.DigitToSegments := by
  refine ⟨opcodeSelects_of_decodeFields fun _ _ => rfl, fun d s => ⟨_, exec_dig2Seg d s, ?_⟩⟩
  refine ⟨digitSegments_getElem_seven _ d, digitSegments_of_nine_lt _, ?_⟩
  refine ⟨?_, ?_, ?_, ?_, ?_, ?_, ?_, ?_, ?_, ?_⟩ <;> rintro rfl <;> rfl

/-- Settles O35: an ASCII digit goes to the digit table; any other code is found in the map or is blank. -/
theorem charToSegments : Obligations.CharToSegments := by
  refine ⟨opcodeSelects_of_decodeFields fun _ _ => rfl, fun c s => ⟨_, exec_chr2Seg c s, ?_⟩⟩
  refine ⟨exec_chr2Seg_of_digit s, fun hc hnd g hg => ?_, fun hc hne => ?_⟩
  · rw [charSegments_of_not_digit s.cfg hc, mapSegments_of_mem hnd hg]
  · rw [charSegments_of_not_digit s.cfg hc, mapSegments_of_forall_ne hne]

/-- Settles O36: the code of a digit is an ASCII digit, and taking 0x30 off gives the digit back. -/
theorem encodersShareTheDigits : Obligations.EncodersShareTheDigits := by
  intro d s hd
  have h := exec_chr2Seg_of_digit s (ascii_of_digit hd)
  rw [add_sub_cancel_left] at h
  exact ⟨_, h.trans (exec_dig2Seg d s), exec_dig2Seg d s⟩

end

section
/-! Encoding (30_encoding.md R90 to R100): each operand form is read back from its encoding, the rows of the opcode
table as `decodeFields` answers them, and a wire byte as the byte its instruction encodes to. -/

namespace Sys2Proof

/-! Operands and their bits (R94, R95) -/

@[simp] theorem lineOperand_lineBit (l : Line) : lineOperand (0#7 ++ lineBit l) = l := by cases l <;> rfl

@[simp] theorem flagOperand_flagBit (f : Bool) : flagOperand (0#7 ++ flagBit f) = f := by cases f <;> rfl

@[simp] theorem lineOperand_dirBit_lineBit (d : Dir) (l : Line) :
    lineOperand (0#6 ++ dirBit d ++ lineBit l) = l := by cases d <;> cases l <;> rfl

@[simp] theorem dirOperand_dirBit_lineBit (d : Dir) (l : Line) :
    dirOperand (0#6 ++ dirBit d ++ lineBit l) = d := by cases d <;> cases l <;> rfl

/-- The bit of a boolean is a field of width one. -/
theorem flagBit_getLsbD (v : Byte) (n : Nat) : flagBit (v.getLsbD n) = v.extractLsb' n 1 := by
  have hbit : ∀ b : Bool, (flagBit b).getLsbD 0 = b := by decide
  refine BitVec.eq_of_getLsbD_eq fun i hi => ?_
  obtain rfl : i = 0 := by omega
  rw [hbit, BitVec.getLsbD_extractLsb']
  rfl

/-- A vector of bits is put together again from three fields. -/
theorem extractLsb'_append_three {a b c : Nat} (v : BitVec (a + b + c)) :
    v.extractLsb' (c + b) a ++ v.extractLsb' c b ++ v.extractLsb' 0 c = v := by
  rw [BitVec.extractLsb'_append_extractLsb'_eq_extractLsb' rfl, BitVec.extractLsb'_append_extractLsb']

/-- R94: the canonical operand byte of a line is the operand byte with its unused bits cleared. -/
@[simp] theorem lineBit_lineOperand (a : Byte) : 0#7 ++ lineBit (lineOperand a) = a &&& 0x01#8 := by
  rw [BitVec.and_one_eq_setWidth_ofBool_getLsbD, lineOperand]
  cases a.getLsbD 0 <;> rfl

/-- R94: the same of a boolean. -/
@[simp] theorem flagBit_flagOperand (a : Byte) : 0#7 ++ flagBit (flagOperand a) = a &&& 0x01#8 := by
  rw [BitVec.and_one_eq_setWidth_ofBool_getLsbD, flagOperand]
  cases a.getLsbD 0 <;> rfl

/-- R94: the same of a direction and a line. -/
@[simp] theorem dirBit_dirOperand_lineBit_lineOperand (a : Byte) :
    0#6 ++ dirBit (dirOperand a) ++ lineBit (lineOperand a) = a &&& 0x03#8 := by
  have hline : lineBit (lineOperand a) = a.extractLsb' 0 1 := by
    rw [← flagBit_getLsbD, lineOperand]
    cases a.getLsbD 0 <;> rfl
  have hdir : dirBit (dirOperand a) = a.extractLsb' 1 1 := by
    rw [← flagBit_getLsbD, dirOperand]
    cases a.getLsbD 1 <;> rfl
  have hand : ∀ (x : BitVec 6) (y z : BitVec 1),
      (x ++ y ++ z) &&& (0#6 ++ 1#1 ++ 1#1) = 0#6 ++ y ++ z := fun x y z => by
    rw [BitVec.and_append, BitVec.and_append, BitVec.and_zero, show y &&& 1#1 = y from BitVec.and_allOnes,
      show z &&& 1#1 = z from BitVec.and_allOnes]
  rw [hline, hdir, ← hand (a.extractLsb' 2 6), extractLsb'_append_three (a := 6) (b := 1) (c := 1) a]
  rfl

/-- A whole operand byte is masked by nothing. -/
theorem and_byteMask (b : Byte) : b &&& 0xFF#8 = b := BitVec.and_allOnes

/-- A mask acts on a command word byte by byte (R90). -/
theorem cmdWord_and (op a b mo ma mb : Byte) :
    cmdWord op a b &&& cmdWord mo ma mb = cmdWord (op &&& mo) (a &&& ma) (b &&& mb) := by
  rw [cmdWord, cmdWord, cmdWord, ← BitVec.and_append, ← BitVec.and_append]

/-! The opcode table (R91, R96, R97) -/

/-- What the opcode table says of an opcode in use: the operation it selects, the operand bits that one reads, and its
canonical encoding. -/
structure OpcodeRow (op a b : Byte) (i : Instr) (ma mb : Byte) : Prop where
  decoded : decodeFields op a b = .ok i
  used : usedBits op = some (cmdWord 0xFF#8 ma mb)
  canonical : encode i = .cmd (cmdWord op (a &&& ma) (b &&& mb))
  free : ¬ Machine.isReserved op

/-- R91, R97: an opcode has a row of the table, or it is reserved. -/
theorem opcodeRow_or_reserved (op a b : Byte) :
    (∃ i ma mb, OpcodeRow op a b i ma mb) ∨
      (Machine.isReserved op ∧ decodeFields op a b = .reserved op) := by
  unfold decodeFields
  split
  case h_18 => exact .inr ⟨by simp only [Machine.isReserved, imp_false] at *; bv_omega, rfl⟩
  all_goals refine .inl ?_
  case h_1 => exact ⟨_, 0x01#8, 0x00#8, rfl, rfl, by simp [encode], by decide⟩
  case h_2 => exact ⟨_, 0x01#8, 0x00#8, rfl, rfl, by simp [encode], by decide⟩
  case h_3 => exact ⟨_, 0x03#8, 0x00#8, rfl, rfl, by simp [encode], by decide⟩
  case h_4 => exact ⟨_, 0x01#8, 0x00#8, rfl, rfl, by simp [encode], by decide⟩
  case h_5 => exact ⟨_, 0x00#8, 0x00#8, rfl, rfl, by simp [encode], by decide⟩
  case h_6 => exact ⟨_, 0x00#8, 0xFF#8, rfl, rfl, by simp [encode, and_byteMask], by decide⟩
  case h_7 => exact ⟨_, 0x00#8, 0x00#8, rfl, rfl, by simp [encode], by decide⟩
  case h_8 => exact ⟨_, 0x00#8, 0xFF#8, rfl, rfl, by simp [encode, and_byteMask], by decide⟩
  case h_9 => exact ⟨_, 0xFF#8, 0xFF#8, rfl, rfl, by simp [encode, and_byteMask], by decide⟩
  case h_10 => exact ⟨_, 0x01#8, 0x00#8, rfl, rfl, by simp [encode], by decide⟩
  case h_11 => exact ⟨_, 0x00#8, 0xFF#8, rfl, rfl, by simp [encode, and_byteMask], by decide⟩
  case h_12 => exact ⟨_, 0x01#8, 0x00#8, rfl, rfl, by simp [encode], by decide⟩
  case h_13 => exact ⟨_, 0x00#8, 0x00#8, rfl, rfl, by simp [encode], by decide⟩
  case h_14 => exact ⟨_, 0xFF#8, 0xFF#8, rfl, rfl, by simp [encode, and_byteMask], by decide⟩
  case h_15 => exact ⟨_, 0xFF#8, 0xFF#8, rfl, rfl, by simp [encode, and_byteMask], by decide⟩
  case h_16 => exact ⟨_, 0x00#8, 0xFF#8, rfl, rfl, by simp [encode, and_byteMask], by decide⟩
  case h_17 => exact ⟨_, 0x00#8, 0xFF#8, rfl, rfl, by simp [encode, and_byteMask], by decide⟩

/-- Every command word that decodes has its row. -/
theorem opcodeRow_of_decode {w : CmdWord} {i : Instr} (h : decode (.cmd w) = .ok i) :
    ∃ ma mb, OpcodeRow (opField w) (aField w) (bField w) i ma mb := by
  rcases opcodeRow_or_reserved (opField w) (aField w) (bField w) with ⟨j, ma, mb, row⟩ | ⟨_, hres⟩
  · obtain rfl : j = i := Decoded.ok.inj (row.decoded.symm.trans h)
    exact ⟨ma, mb, row⟩
  · exact absurd (hres.symm.trans h) (by simp)

/-- R96: the canonical encoding of what a word decodes to is the word with its unused bits cleared. -/
theorem OpcodeRow.encode_eq {w : CmdWord} {i : Instr} {ma mb : Byte}
    (row : OpcodeRow (opField w) (aField w) (bField w) i ma mb) :
    encode i = .cmd (w &&& cmdWord 0xFF#8 ma mb) := by
  conv_rhs => rw [← cmdWord_fields w, cmdWord_and, and_byteMask]
  exact row.canonical

/-- Words that agree on the bits their masks keep have one opcode. -/
theorem opField_eq_of_and_eq {v w : CmdWord} {ma mb : Byte}
    (h : v &&& cmdWord 0xFF#8 ma mb = w &&& cmdWord 0xFF#8 ma mb) : opField v = opField w := by
  rw [← cmdWord_fields v, ← cmdWord_fields w, cmdWord_and, cmdWord_and, and_byteMask, and_byteMask] at h
  simpa using congrArg opField h

/-! Wire bytes (R99, R100) -/

/-- R100, R104: a wire byte is what its instruction encodes to. -/
theorem encode_of_decode_wire {slot : Slot} {v : Byte} {i : Instr} (h : decode (.wire slot v) = .ok i) :
    encode i = .wire slot v := by
  cases slot with
  | segment =>
    obtain rfl := Decoded.ok.inj h
    rw [encode, flagBit_getLsbD, BitVec.extractLsb'_append_extractLsb']
  | command =>
    simp only [decode, decodeWireCommand] at h
    split_ifs at h with hdata haddr hctrl <;> obtain rfl := Decoded.ok.inj h
    · rw [encode, flagBit_getLsbD, ← hdata.1, ← hdata.2, extractLsb'_append_three (a := 5) (b := 1) (c := 2) v]
    · rw [encode, ← haddr, BitVec.extractLsb'_append_extractLsb']
    · rw [encode, flagBit_getLsbD, ← hctrl, extractLsb'_append_three (a := 4) (b := 1) (c := 3) v]

/-- R104: a segment byte is read back. -/
theorem decodeWireSegment_append (c : Bool) (g : BitVec 7) :
    decodeWireSegment (flagBit c ++ g) = .ok (.wireSegByte c g) := by
  have hbit : (flagBit c ++ g).getLsbD 7 = c := by rw [BitVec.getLsbD_append]; cases c <;> rfl
  rw [decodeWireSegment, hbit, BitVec.extractLsb'_append_eq_right]

/-- R101: the data command as the document's OR. -/
theorem encode_wireDataCmd (f : Bool) : encode (.wireDataCmd f) = .wire .command (Machine.dataCommandByte f) := by
  cases f <;> rfl

/-- R102: the address command as the document's OR. -/
theorem encode_wireAddrCmd (p : Pos) : encode (.wireAddrCmd p) = .wire .command (Machine.addressCommandByte p) := by
  revert p; decide

/-- R103: the display control command as the document's OR. -/
theorem encode_wireCtrlCmd (e : Bool) (b : BitVec 3) :
    encode (.wireCtrlCmd e b) = .wire .command (Machine.controlByte e b) := by
  revert e b; decide

/-- R104: the segment byte as the document's OR. -/
theorem encode_wireSegByte (c : Bool) (g : BitVec 7) :
    encode (.wireSegByte c g) = .wire .segment (Machine.segmentByte c g) := by
  have happ : (flagBit c ++ g : Byte) = (flagBit c).setWidth 8 <<< 7 ||| g.setWidth 8 :=
    (BitVec.setWidth_eq _).symm.trans BitVec.setWidth_append_eq_shiftLeft_setWidth_or
  rw [encode, happ]
  cases c <;> rfl

end Sys2Proof

open Sys2Proof Sys2Proof.Machine

/-- Settles O1: the decoder computes. -/
theorem specWordsDecode : Obligations.SpecWordsDecode := by
  unfold Obligations.SpecWordsDecode
  decide

/-- Settles O2: a command word is read back field by field, a wire byte by its fixed bits. -/
theorem decodeOfEncode : Obligations.DecodeOfEncode := by
  intro i
  cases i with
  | wireDataCmd f => cases f <;> rfl
  | wireAddrCmd p => revert p; decide
  | wireCtrlCmd e b => revert e b; decide
  | wireSegByte c g => exact decodeWireSegment_append c g
  | _ => simp [encode, decode_cmdWord, decodeFields]

/-- Settles O3: a word that agrees with `w` on the used bits has the same row, so the same canonical encoding, which
decodes to one operation. -/
theorem unusedOperandBitsIgnored : Obligations.UnusedOperandBitsIgnored := by
  refine ⟨fun w i h => ?_, fun slot v i => encode_of_decode_wire⟩
  obtain ⟨ma, mb, row⟩ := opcodeRow_of_decode h
  refine ⟨_, row.used, row.encode_eq, fun v hv => ?_⟩
  have hop := opField_eq_of_and_eq hv
  rcases opcodeRow_or_reserved (opField v) (aField v) (bField v) with ⟨j, ma', mb', row'⟩ | ⟨hres, _⟩
  · have hmask : cmdWord 0xFF#8 ma' mb' = cmdWord 0xFF#8 ma mb :=
      Option.some.inj (row'.used.symm.trans ((congrArg usedBits hop).trans row.used))
    have hcode : encode j = encode i := by rw [row'.encode_eq, row.encode_eq, hmask, hv]
    calc decode (.cmd v) = .ok j := row'.decoded
      _ = decode (encode j) := (decodeOfEncode j).symm
      _ = .ok i := by rw [hcode, decodeOfEncode i]
  · exact absurd (hop ▸ hres) row.free

/-- Settles O5: a decoded byte is the encoding of its instruction, whose two top bits are fixed. -/
theorem wireBytesAreThePatterns : Obligations.WireBytesAreThePatterns := by
  refine ⟨encode_wireDataCmd, encode_wireAddrCmd, encode_wireCtrlCmd, encode_wireSegByte, fun v i h => ?_⟩
  have hcode := encode_of_decode_wire h
  cases i with
  | wireDataCmd f =>
    obtain ⟨-, rfl⟩ := Code.wire.inj hcode
    cases f <;> simp <;> decide
  | wireAddrCmd p =>
    obtain ⟨-, rfl⟩ := Code.wire.inj hcode
    have htop : ∀ p : Pos, (0b110000#6 ++ p).extractLsb' 6 2 = 0b11#2 := by decide
    simp [htop]
  | wireCtrlCmd e b =>
    obtain ⟨-, rfl⟩ := Code.wire.inj hcode
    have htop : ∀ e (b : BitVec 3), (0b1000#4 ++ flagBit e ++ b).extractLsb' 6 2 = 0b10#2 := by decide
    simp [htop]
  | _ => simp [encode] at hcode

end

section
/-! The effect of every operation, said once: the hardware effect of each row of the opcode table, the checks it makes
of the ghost record, and that `exec` answers the two together (00_scope.md R8, 60_exceptions.md R236). -/

namespace Sys2Proof.Machine

/-- This state with the ghost record of that one (R236: the two never meet). -/
def State.withGhostOf (t g : State) : State := { t with viol := g.viol, reasons := g.reasons }

theorem State.withGhostOf_congr (t : State) {g h : State} (hv : g.viol = h.viol) (hr : g.reasons = h.reasons) :
    t.withGhostOf g = t.withGhostOf h := by rw [withGhostOf, withGhostOf, hv, hr]

theorem State.withGhostOf_sameButGhost (t g : State) : (t.withGhostOf g).sameButGhost t := rfl

/-- A host operation of the line transport or the frame layer done: the engine free, the result delivered (R92, R93). -/
def delivered (r : Byte) (s : State) : State := { s with busy := false, useq := none, res := r }

/-- R144 to R147: sending a byte as an operation. -/
def State.afterByte (s : State) (v : Byte) : State :=
  { s with
    lvl := ⟨false, v[7]⟩, dir := ⟨s.dir.clk, .output⟩
    fstate := if s.fstate = .idle then .idle else .framed
    shreg := 0x00#8, bitcnt := 0#4, busy := false, useq := none
    ackQ := s.answer 0, sample := s.answer 0, reads := s.reads + 1
    ltrace := s.ltrace ++ byteWave v (s.answer 0)
    wtrace := s.wtrace ++ [.byte v (s.answer 0)]
    res := byteOfBit (s.answer 0) }

/-- Some traffic sent, the buffer and the colon written. -/
def afterSending (s : State) (tr : List Traffic) (b : Cells) (c : Bool) : State :=
  { s.afterTraffic tr with buf := b, colon := c }

/-- R183: INIT before its CLEAR: the pins, the directions, the defaults. -/
def State.initialised (s : State) (c d : Byte) : State :=
  { s with
    clkPin := c, dioPin := d, dir := ⟨.output, .output⟩, fstate := .idle, inited := true
    ltrace := s.ltrace ++ [.dir .clk .output, .dly, .dir .dio .output, .dly]
    brightness := 7#3, enabled := true }

/-- R182: the cleared buffer. -/
def blankCells : Cells := ⟨0x00#8, 0x00#8, 0x00#8, 0x00#8⟩

/-- R174: WRSEG. -/
def State.afterWrSeg (s : State) (pos raw : Byte) : State :=
  afterSending s (s.segmentTraffic (position pos) (compose (position pos) raw s.colon))
    (s.buf.set (position pos) (compose (position pos) raw s.colon)) s.colon

/-- The hardware effect of every operation; the ghost record as it was. -/
def effect (i : Instr) (s : State) : State :=
  match i with
  | .drvh l => delivered 0x00#8 { s with lvl := s.lvl.set l true, ltrace := s.ltrace ++ [.drv l true, .dly] }
  | .drvl l => delivered 0x00#8 { s with lvl := s.lvl.set l false, ltrace := s.ltrace ++ [.drv l false, .dly] }
  | .setDir l d => delivered 0x00#8 { s with dir := s.dir.set l d, ltrace := s.ltrace ++ [.dir l d, .dly] }
  | .read l =>
    delivered (byteOfBit (s.answer 0)) { s with
      sample := s.answer 0, reads := s.reads + 1
      ltrace := s.ltrace ++ [.rd l (s.answer 0), .dly] }
  | .start =>
    delivered 0x00#8 { s with
      lvl := ⟨true, false⟩, fstate := .framed, ltrace := s.ltrace ++ startWave (dioFirst s)
      wtrace := s.wtrace ++ [.start], starts := s.starts + 1 }
  | .wrByte v => s.afterByte v
  | .stop =>
    delivered 0x00#8 { s with
      lvl := ⟨true, true⟩, fstate := .idle, ltrace := s.ltrace ++ stopWave
      wtrace := s.wtrace ++ [.stop] }
  | .command v => afterSending s [.single v] s.buf s.colon
  | .wrSeg pos raw => s.afterWrSeg pos raw
  | .setColon f =>
    afterSending s [.dataWrite 1#2 (overlayColon s.buf.p1 f), .single s.ctrl]
      (s.buf.set 1#2 (overlayColon s.buf.p1 f)) f
  | .setBrt v =>
    afterSending { s with brightness := maskBrightness v } [.single (controlByte s.enabled (maskBrightness v))]
      s.buf s.colon
  | .setEn f => afterSending { s with enabled := f } [.single (controlByte f s.brightness)] s.buf s.colon
  | .clear => afterSending s (clearTraffic s.buf s.ctrl) blankCells false
  | .init c d => afterSending (s.initialised c d) (clearTraffic s.buf 0x8F#8) blankCells false
  | .dispDigit pos digit => s.afterWrSeg pos (digitSegments s.cfg.digitLut digit)
  | .dig2Seg d => delivered (digitSegments s.cfg.digitLut d) s
  | .chr2Seg c => delivered (charSegments s.cfg c) s
  | .wireDataCmd f => s.afterByte (dataCommandByte f)
  | .wireAddrCmd p => s.afterByte (addressCommandByte p)
  | .wireCtrlCmd e b => s.afterByte (controlByte e b)
  | .wireSegByte c g => s.afterByte (segmentByte c g)

/-- The checks every operation makes of the state it is issued in (R236); they write the ghost record alone. -/
def checked (i : Instr) (s : State) : State :=
  match i with
  | .drvh _ => violation .rawLineOp (checkInit s)
  | .drvl _ => violation .rawLineOp (checkInit s)
  | .setDir _ _ => violation .rawLineOp (checkInit s)
  | .read _ => checkInit s
  | .start => checkNoFrame (checkInit s)
  | .wrByte _ => checkFrame .byteOutsideFrame (checkInit s)
  | .stop => checkFrame .stopOutsideFrame (checkInit s)
  | .command _ => checkNoFrame (checkInit s)
  | .wrSeg _ _ => checkNoFrame (checkInit s)
  | .setColon _ => checkNoFrame (checkInit s)
  | .setBrt _ => checkNoFrame (checkInit s)
  | .setEn _ => checkNoFrame (checkInit s)
  | .clear => checkNoFrame (checkInit s)
  | .init c d => checkPins c d s
  | .dispDigit _ _ => checkNoFrame (checkInit s)
  | .dig2Seg _ => s
  | .chr2Seg _ => s
  | .wireDataCmd _ => checkFrame .byteOutsideFrame (checkInit s)
  | .wireAddrCmd _ => checkFrame .byteOutsideFrame (checkInit s)
  | .wireCtrlCmd _ _ => checkFrame .byteOutsideFrame (checkInit s)
  | .wireSegByte _ _ => checkFrame .byteOutsideFrame (checkInit s)

/-- R125: all that READ does. -/
theorem operate_readScript (l : Line) (s : State) :
    operate (readScript l) s = (effect (.read l) s).withGhostOf (checkInit s) := by
  cases h : s.inited <;>
    simp [operate, readScript, run, checkInit, violateIf, violation, accept, sampleLine, emitL, advance, complete,
      effect, delivered, State.withGhostOf, State.answer, h]

/-- R144: all that sending a byte as an operation does. -/
theorem operate_wrByteScript_eq (v : Byte) (s : State) :
    operate (wrByteScript v) s = (s.afterByte v).withGhostOf (checkFrame .byteOutsideFrame (checkInit s)) := by
  rw [operate_wrByteScript, checkFrame_checkInit_sameButGhost _ s]
  rfl

/-- A host operation of the compound kind: its traffic, its registers, and the two checks before it. -/
theorem operate_hostOp_afterSending {f : Script} {s : State} {tr : List Traffic} {b : Cells} {c : Bool}
    (htr : tr ≠ []) (h : (f (checkInit (accept s))).2 = withDisplay (sent (checkInit (accept s)) tr) b c) :
    operate (hostOp f) s = (afterSending s tr b c).withGhostOf (checkNoFrame (checkInit s)) :=
  operate_hostOp_sent htr h

/-- R150: COMMAND. -/
theorem operate_commandScript_eq (v : Byte) (s : State) :
    operate (commandScript v) s =
      (afterSending s [.single v] s.buf s.colon).withGhostOf (checkNoFrame (checkInit s)) := by
  have h := withDisplay_sent_self (checkInit (accept s)) [.single v]
  rw [checkInit_buf, checkInit_colon] at h
  exact operate_hostOp_afterSending (List.cons_ne_nil _ _) ((sendCommand_sent v _).trans h.symm)

/-- R174: WRSEG. -/
theorem operate_wrSegScript (pos raw : Byte) (s : State) :
    operate (wrSegScript pos raw) s = (s.afterWrSeg pos raw).withGhostOf (checkNoFrame (checkInit s)) := by
  have htr : s.segmentTraffic (position pos) (compose (position pos) raw s.colon) ≠ [] := by
    simp [State.segmentTraffic]
  have h := writeSegment_sent pos raw (checkInit (accept s))
  rw [State.segmentTraffic, checkInit_colon, checkInit_buf, checkInit_ctrl] at h
  exact operate_hostOp_afterSending htr h

/-- R177: SETCOLON. -/
theorem operate_setColonScript (f : Bool) (s : State) :
    operate (setColonScript f) s = (effect (.setColon f) s).withGhostOf (checkNoFrame (checkInit s)) := by
  have h := overlay_sent f (checkInit (accept s))
  rw [checkInit_buf, checkInit_ctrl] at h
  exact operate_hostOp_afterSending (List.cons_ne_nil _ _) h

/-- R182: CLEAR. -/
theorem operate_clearScript (s : State) :
    operate clearScript s = (effect .clear s).withGhostOf (checkNoFrame (checkInit s)) := by
  have h := clearDisplay_sent (checkInit (accept s))
  rw [checkInit_buf, checkInit_ctrl] at h
  exact operate_hostOp_afterSending (clearTraffic_ne_nil _ _) h

/-- R179: SETBRT is COMMAND once the brightness is written. -/
theorem operate_setBrtScript (v : Byte) (s : State) :
    operate (setBrtScript v) s = (effect (.setBrt v) s).withGhostOf (checkNoFrame (checkInit s)) := by
  rw [setBrtScript, operate_refreshAfter (run_setBrightness_accept_checkInit _ s), operate_commandScript_eq]
  exact State.withGhostOf_congr _ (by simp [checkNoFrame, checkInit]) (by simp [checkNoFrame, checkInit])

/-- R180: SETEN is COMMAND once the on-flag is written. -/
theorem operate_setEnScript (f : Bool) (s : State) :
    operate (setEnScript f) s = (effect (.setEn f) s).withGhostOf (checkNoFrame (checkInit s)) := by
  rw [setEnScript, operate_refreshAfter (run_setEnabled_accept_checkInit _ s), operate_commandScript_eq]
  exact State.withGhostOf_congr _ (by simp [checkNoFrame, checkInit]) (by simp [checkNoFrame, checkInit])

/-- Traffic sent inside an operation that then delivers 0x00 and is complete. -/
theorem complete_sent {s : State} {tr : List Traffic} (htr : tr ≠ []) (b : Cells) (c : Bool) :
    complete { withDisplay (sent s tr) b c with res := 0x00#8 } =
      (afterSending s tr b c).withGhostOf (checkNoFrame s) := by
  obtain ⟨x, tr, rfl⟩ := List.exists_cons_of_ne_nil htr
  rw [sent_cons]
  by_cases hf : s.fstate = .idle
  · rw [checkNoFrame_idle hf]
    rfl
  · simp [checkNoFrame, violateIf, hf]
    rfl

/-- R183: INIT up to its CLEAR, in the state that has accepted it. -/
def State.initialising (s : State) (c d : Byte) : State :=
  { (s.initialised c d).withGhostOf (checkPins c d s) with busy := true, useq := some 4 }

theorem runAll_initialising (c d : Byte) (s : State) :
    runAll [.checkPins c d, .bindPins c d, .setDir .clk .output, .dly, .setDir .dio .output, .dly, .loadDefaults]
      (accept s) = s.initialising c d := by
  by_cases h : c = d <;>
    simp [run, checkPins, violateIf, violation, accept, direct, emitL, advance, h, State.initialising,
      State.initialised, State.withGhostOf, Config.defaultBrightness, Config.defaultEnabled]

/-- Accepting an operation and its ghost record change nothing of what is sent. -/
theorem afterSending_initialising (c d : Byte) (s : State) (tr : List Traffic) (b : Cells) (f : Bool) :
    afterSending (s.initialising c d) tr b f =
      (afterSending (s.initialised c d) tr b f).withGhostOf (checkPins c d s) := by
  have hev : trafficEvents (s.initialising c d) 0 0 tr = trafficEvents (s.initialised c d) 0 0 tr :=
    trafficEvents_congr tr rfl rfl rfl rfl
  have hsy : trafficSyms (s.initialising c d) 0 tr = trafficSyms (s.initialised c d) 0 tr :=
    trafficSyms_congr tr rfl rfl
  rw [afterSending, State.afterTraffic, hev, hsy]
  rfl

/-- R183: INIT. -/
theorem operate_initScript (c d : Byte) (s : State) :
    operate (initScript c d) s = (effect (.init c d) s).withGhostOf (checkPins c d s) := by
  have hrun : operate (initScript c d) s = complete { (clearDisplay (s.initialising c d)).2 with res := 0x00#8 } :=
    congrArg (fun t => complete { (clearDisplay t).2 with res := 0x00#8 }) (runAll_initialising c d s)
  have hidle : checkNoFrame (s.initialising c d) = s.initialising c d := checkNoFrame_idle rfl
  have hbuf : (s.initialising c d).buf = s.buf := rfl
  have hctrl : (s.initialising c d).ctrl = 0x8F#8 := (by decide : controlByte true 7#3 = 0x8F#8)
  rw [hrun, clearDisplay_sent, complete_sent (clearTraffic_ne_nil _ _), hidle, hbuf, hctrl, afterSending_initialising]
  rfl

/-- R8, R236: every operation has its hardware effect and makes its checks, and does nothing else. -/
theorem operate_scriptOf (i : Instr) (s : State) :
    operate (scriptOf i) s = (effect i s).withGhostOf (checked i s) := by
  cases i with
  | drvh l => exact (operate_drive l true s).trans (by rw [rawLineChecks_sameButGhost s]; rfl)
  | drvl l => exact (operate_drive l false s).trans (by rw [rawLineChecks_sameButGhost s]; rfl)
  | setDir l d => exact (operate_setDirScript l d s).trans (by rw [rawLineChecks_sameButGhost s]; rfl)
  | read l => exact operate_readScript l s
  | start => exact (operate_startScript s).trans (by rw [checkNoFrame_checkInit_sameButGhost s]; rfl)
  | wrByte v => exact operate_wrByteScript_eq v s
  | stop => exact (operate_stopScript s).trans (by rw [checkFrame_checkInit_sameButGhost _ s]; rfl)
  | command v => exact operate_commandScript_eq v s
  | wrSeg p r => exact operate_wrSegScript p r s
  | setColon f => exact operate_setColonScript f s
  | setBrt v => exact operate_setBrtScript v s
  | setEn f => exact operate_setEnScript f s
  | clear => exact operate_clearScript s
  | init c d => exact operate_initScript c d s
  | dispDigit p d => exact (operate_dispDigitScript p d s).trans (operate_wrSegScript _ _ s)
  | dig2Seg d => rfl
  | chr2Seg c => rfl
  | wireDataCmd f => exact operate_wrByteScript_eq _ s
  | wireAddrCmd p => exact operate_wrByteScript_eq _ s
  | wireCtrlCmd e b => exact operate_wrByteScript_eq _ s
  | wireSegByte c g => exact operate_wrByteScript_eq _ s

/-- The answer of `exec`, by the effect and the checks. -/
theorem exec_eq_effect (i : Instr) (s : State) : exec i s = .next ((effect i s).withGhostOf (checked i s)) := by
  rw [exec_eq_operate, operate_scriptOf]

theorem eq_of_exec {i : Instr} {s t : State} (h : exec i s = .next t) :
    t = (effect i s).withGhostOf (checked i s) :=
  Host.Outcome.next.inj (h.symm.trans (exec_eq_effect i s))

end Sys2Proof.Machine
end

section
/-! What follows from the effect and the checks of one operation: it completes; READ and a byte deliver the oracle's
answer; the reasons recorded (60_exceptions.md R236); WRSEG, SETCOLON, INIT (42_display_state.md R174, R177, R183). -/

namespace Sys2Proof.Machine

/-- R92: every operation leaves the engine free. -/
theorem effect_free (i : Instr) (s : State) : (effect i s).busy = false ∧ (effect i s).useq = none := by
  cases i <;> exact ⟨rfl, rfl⟩

/-- R90, R91, up to the ghost record: what an operation answers. -/
theorem exec_sameButGhost_effect (i : Instr) (s : State) :
    ∃ t, exec i s = .next t ∧ t.sameButGhost (effect i s) :=
  ⟨_, exec_eq_effect i s, State.withGhostOf_sameButGhost _ _⟩

/-- R99, log 11: a wire byte is sent, and checked, like WRBYTE's. -/
theorem effect_of_encode_wire {i : Instr} {slot : Slot} {v : Byte} (h : encode i = .wire slot v) (s : State) :
    effect i s = s.afterByte v := by
  cases i with
  | wireDataCmd f => obtain ⟨-, rfl⟩ := Code.wire.inj ((encode_wireDataCmd f).symm.trans h); rfl
  | wireAddrCmd p => obtain ⟨-, rfl⟩ := Code.wire.inj ((encode_wireAddrCmd p).symm.trans h); rfl
  | wireCtrlCmd e b => obtain ⟨-, rfl⟩ := Code.wire.inj ((encode_wireCtrlCmd e b).symm.trans h); rfl
  | wireSegByte c g => obtain ⟨-, rfl⟩ := Code.wire.inj ((encode_wireSegByte c g).symm.trans h); rfl
  | _ => simp [encode] at h

/-! The answers of the named oracles (R126) -/

theorem answer_acking {s : State} (h : s.oracle = .acking) (k : Nat) : s.answer k = false := by
  simp [State.answer, h]

theorem answer_absent {s : State} (h : s.oracle = .absent) (k : Nat) : s.answer k = true := by
  simp [State.answer, h]

theorem answer_script {s : State} {answers : List Bit} {b : Bit} (h : s.oracle = .script answers)
    (hb : answers[s.reads]? = some b) : s.answer 0 = b := by
  simp [State.answer, h, hb]

/-! The ghost record (R236) -/

/-- From `s` to `t` exactly the reasons `P` were recorded. -/
structure Records (s t : State) (P : Reason → Prop) : Prop where
  reasons : ∀ r, r ∈ t.reasons ↔ r ∈ s.reasons ∨ P r
  viol : t.viol = true ↔ s.viol = true ∨ ∃ r, P r

theorem Records.congr {s t : State} {P Q : Reason → Prop} (h : Records s t P) (hpq : ∀ r, P r ↔ Q r) :
    Records s t Q := by
  obtain rfl : P = Q := funext fun r => propext (hpq r)
  exact h

theorem Records.trans {s t u : State} {P Q : Reason → Prop} (h : Records s t P) (g : Records t u Q) :
    Records s u fun r => P r ∨ Q r where
  reasons r := by rw [g.reasons, h.reasons, or_assoc]
  viol := by rw [g.viol, h.viol, or_assoc, exists_or]

theorem records_nothing (s : State) : Records s s fun _ => False := ⟨by simp, by simp⟩

theorem records_violateIf (c : Bool) (q : Reason) (s : State) :
    Records s (violateIf c q s) fun r => c = true ∧ r = q where
  reasons r := mem_violateIf_reasons c q r s
  viol := by cases c <;> simp

/-- The check of `inited`, then another check (R236). -/
theorem records_checkInit_then (c : Bool) (q : Reason) (s : State) :
    Records s (violateIf c q (checkInit s)) fun r =>
      ((!s.inited) = true ∧ r = .notInitialised) ∨ (c = true ∧ r = q) :=
  (records_violateIf _ _ s).trans (records_violateIf _ _ _)

theorem records_rawLine (s : State) :
    Records s (violation .rawLineOp (checkInit s)) fun r =>
      ((!s.inited) = true ∧ r = .notInitialised) ∨ (true = true ∧ r = .rawLineOp) :=
  records_checkInit_then true _ s

theorem records_opening (s : State) :
    Records s (checkNoFrame (checkInit s)) fun r =>
      ((!s.inited) = true ∧ r = .notInitialised) ∨ (decide (s.fstate ≠ .idle) = true ∧ r = .startInOpenFrame) := by
  rw [checkNoFrame, checkInit_fstate]
  exact records_checkInit_then _ _ s

theorem records_inFrame (q : Reason) (s : State) :
    Records s (checkFrame q (checkInit s)) fun r =>
      ((!s.inited) = true ∧ r = .notInitialised) ∨ (decide (s.fstate = .idle) = true ∧ r = q) := by
  rw [checkFrame, checkInit_fstate]
  exact records_checkInit_then _ _ s

/-- R236: an operation's checks record the reasons of the table. -/
theorem records_checked (i : Instr) (s : State) : Records s (checked i s) (recordsReason i s) := by
  cases i
  case drvh | drvl | setDir =>
    exact (records_rawLine s).congr fun r => by cases r <;> simp [recordsReason, Instr.beginsWithStart, encode]
  case read =>
    exact (records_violateIf _ _ s).congr fun r => by
      cases r <;> simp [recordsReason, Instr.beginsWithStart, encode]
  case start | command | wrSeg | setColon | setBrt | setEn | clear | dispDigit =>
    exact (records_opening s).congr fun r => by cases r <;> simp [recordsReason, Instr.beginsWithStart, encode]
  case stop | wrByte | wireDataCmd | wireAddrCmd | wireCtrlCmd | wireSegByte =>
    exact (records_inFrame _ s).congr fun r => by cases r <;> simp [recordsReason, Instr.beginsWithStart, encode]
  case init c d =>
    exact (records_violateIf _ _ s).congr fun r => by
      cases r <;> simp [recordsReason, Instr.beginsWithStart, encode, eq_comm (a := d)]
  case dig2Seg | chr2Seg =>
    exact (records_nothing s).congr fun r => by cases r <;> simp [recordsReason, Instr.beginsWithStart, encode]

/-- R236: before INIT every operation but INIT and the encoder's records that the engine is not initialised. -/
theorem checked_viol_of_not_inited {i : Instr} (hinit : ∀ c d, i ≠ .init c d) (hdig : ∀ d, i ≠ .dig2Seg d)
    (hchr : ∀ c, i ≠ .chr2Seg c) {s : State} (h : s.inited = false) : (checked i s).viol = true :=
  (records_checked i s).viol.2 (.inr ⟨.notInitialised, h, hinit, hdig, hchr⟩)

end Sys2Proof.Machine

open Sys2Proof Sys2Proof.Machine

/-- Settles O10: no arm of `effect` leaves the engine busy. -/
theorem everyOperationCompletes : Obligations.EveryOperationCompletes := fun i s =>
  ⟨_, exec_eq_effect i s, effect_free i s⟩

/-- Settles O11: the reset table is the definition of the reset state. -/
theorem resetLeavesTheTable : Obligations.ResetLeavesTheTable := rfl

/-- Settles O15: READ's effect is its two events, its answer and its result. -/
theorem readDeliversTheOraclesLevel : Obligations.ReadDeliversTheOraclesLevel :=
  ⟨opcodeSelects_of_decodeFields fun _ _ => rfl, fun l s => exec_sameButGhost_effect (.read l) s⟩

/-- Settles O16: READ and WRBYTE carry the answer to the next read, which the oracle fixes. -/
theorem namedOraclesAnswer : Obligations.NamedOraclesAnswer := by
  intro l v s
  have hbit : ∀ {b : Bit}, s.answer 0 = b →
      (effect (.read l) s).res = byteOfBit b ∧ (effect (.wrByte v) s).res = byteOfBit b
        ∧ (effect (.wrByte v) s).ackQ = b := by
    rintro _ rfl
    exact ⟨rfl, rfl, rfl⟩
  refine ⟨fun h => ?_, fun h => ?_, fun answers b h hb => ?_⟩
  · obtain ⟨hread, hbyte, hack⟩ := hbit (answer_acking h 0)
    exact ⟨_, _, exec_eq_effect _ s, hread, exec_eq_effect _ s, hbyte, hack⟩
  · obtain ⟨hread, hbyte, hack⟩ := hbit (answer_absent h 0)
    exact ⟨_, _, exec_eq_effect _ s, hread, exec_eq_effect _ s, hbyte, hack⟩
  · obtain rfl := answer_script h hb
    exact ⟨_, _, exec_eq_effect _ s, rfl, exec_eq_effect _ s, rfl, rfl⟩

/-- Settles O19: the effect of a byte, and its check of the frame state. -/
theorem writeByteSendsBitsAndSamplesAck : Obligations.WriteByteSendsBitsAndSamplesAck := by
  refine ⟨opcodeSelects_of_decodeFields fun _ _ => rfl,
    fun v a => ⟨lineEventCount_byteWave v a, delayCount_byteWave v a⟩, fun v s => ?_⟩
  refine ⟨_, exec_eq_effect (.wrByte v) s, fun h => ?_, State.withGhostOf_sameButGhost _ _⟩
  exact checkFrame_records _ ((checkInit_fstate s).trans h)

/-- Settles O22: a wire byte's effect is that of the byte it encodes to. -/
theorem wireBytesAreFramedOut : Obligations.WireBytesAreFramedOut := by
  intro i slot v s h
  obtain ⟨t, ht, hsame⟩ := exec_sameButGhost_effect i s
  rw [effect_of_encode_wire h] at hsame
  exact ⟨t, ht, hsame⟩

/-- Settles O23: the ghost record after an operation is that of its checks. -/
theorem reasonsRecorded : Obligations.ReasonsRecorded := fun i s =>
  ⟨_, exec_eq_effect i s, (records_checked i s).reasons, (records_checked i s).viol⟩

/-- Settles O12: at reset `inited` is clear, so all but INIT and the encoder fail their first check. -/
theorem onlyInitAndEncoderAreCleanAfterReset : Obligations.OnlyInitAndEncoderAreCleanAfterReset := by
  intro i t h
  obtain rfl := eq_of_exec h
  have hviol : State.reset.viol = false := rfl
  change (checked i State.reset).viol = false ↔ _
  cases i
  case init c d => simp [checked, checkPins, hviol]
  case dig2Seg | chr2Seg => simp [checked, hviol]
  all_goals
    rw [checked_viol_of_not_inited (by simp) (by simp) (by simp) rfl]
    simp

/-- Settles O24: the effect of WRSEG. -/
theorem writeSegmentEffect : Obligations.WriteSegmentEffect := by
  refine ⟨opcodeSelects_of_decodeFields fun _ _ => rfl, ?_⟩
  rintro a raw s _ _ rfl rfl
  exact exec_sameButGhost_effect (.wrSeg a raw) s

/-- Settles O26: the effect of SETCOLON. -/
theorem setColonRewritesPositionOne : Obligations.SetColonRewritesPositionOne := by
  refine ⟨opcodeSelects_of_decodeFields fun _ _ => rfl, ?_⟩
  rintro f s _ rfl
  exact exec_sameButGhost_effect (.setColon f) s

/-- Settles O31: the effect of INIT, whose one check is that of the pins. -/
theorem initEffect : Obligations.InitEffect := by
  refine ⟨opcodeSelects_of_decodeFields fun _ _ => rfl, fun c d s => ?_⟩
  refine ⟨_, exec_eq_effect (.init c d) s, ?_, State.withGhostOf_sameButGhost _ _⟩
  exact (violateIf_viol _ _ s).trans (Bool.or_comm _ _)

end

section
/-! The step (30_encoding.md R92, 10_state.md R24): what a step can do, what it never loses, and that it keeps the
engine quiet between two operations. -/

namespace Sys2Proof.Machine

/-! What a step can do -/

theorem step_of_busy {s : State} (h : s.busy = true) : step s = .next (microStep s) := by
  simp [step, nextAction, proceed, h]

theorem step_of_no_word {s : State} (hb : s.busy = false) (hp : s.pending = []) : step s = .next s := by
  simp [step, nextAction, await, hb, hp]

theorem step_of_word {s : State} {c : Code} {rest : List Code} (hb : s.busy = false) (hp : s.pending = c :: rest) :
    step s = acceptWord c rest s := by
  simp [step, nextAction, hb, hp]

theorem acceptWord_of_ok {c : Code} {i : Instr} (h : decode c = .ok i) (rest : List Code) (s : State) :
    acceptWord c rest s = exec i { s with pending := rest } := by
  simp [acceptWord, h]

theorem acceptWord_of_reserved {c : Code} {op : Byte} (h : decode c = .reserved op) (rest : List Code) (s : State) :
    acceptWord c rest s = .refused (.reservedOpcode op) := by
  simp [acceptWord, h]

theorem acceptWord_of_noCommand {c : Code} {v : Byte} (h : decode c = .noCommand v) (rest : List Code) (s : State) :
    acceptWord c rest s = .refused (.noWireCommand v) := by
  simp [acceptWord, h]

/-- R24, R92: a step that answers a next state is a micro-step, or no step at all, or a whole operation. -/
theorem step_cases {s t : State} (h : step s = .next t) :
    (s.busy = true ∧ t = microStep s) ∨ (s.busy = false ∧ t = s) ∨
      (s.busy = false ∧ ∃ i rest, exec i { s with pending := rest } = .next t) := by
  cases hb : s.busy with
  | true => exact .inl ⟨rfl, (Host.Outcome.next.inj ((step_of_busy hb).symm.trans h)).symm⟩
  | false =>
    cases hp : s.pending with
    | nil => exact .inr (.inl ⟨rfl, (Host.Outcome.next.inj ((step_of_no_word hb hp).symm.trans h)).symm⟩)
    | cons c rest =>
      rw [step_of_word hb hp] at h
      cases hd : decode c with
      | ok i => exact .inr (.inr ⟨rfl, i, rest, (acceptWord_of_ok hd rest s).symm.trans h⟩)
      | reserved op => simp [acceptWord_of_reserved hd] at h
      | noCommand v => simp [acceptWord_of_noCommand hd] at h

/-- A table word that decodes is some code that decodes. -/
theorem decodeTableWord_eq_some {nbits w : Nat} {i : Instr} (h : decodeTableWord nbits w = some i) :
    ∃ c, codeOfTableWord nbits w = some c ∧ decode c = .ok i := by
  unfold decodeTableWord at h
  split at h
  · next c hc =>
    refine ⟨c, hc, ?_⟩
    split at h
    · next j hj => rw [hj, Option.some.inj h]
    · cases h
    · cases h
  · cases h

/-! What no step loses (R41, R42, R237) -/

/-- A recorded violation, its reasons and both traces' past are still there. -/
structure KeepsRecord (s t : State) : Prop where
  viol : s.viol = true → t.viol = true
  reasons : ∀ r ∈ s.reasons, r ∈ t.reasons
  ltrace : s.ltrace <+: t.ltrace
  wtrace : s.wtrace <+: t.wtrace

theorem Grows.keepsRecord {s t : State} (h : Grows s t) : KeepsRecord s t := ⟨h.viol, h.reasons, h.ltrace, h.wtrace⟩

/-- After a micro-step what belongs to it is run, and nothing else is written but the sequencer's own registers. -/
theorem settle_runs (us : List Uop) (s : State) :
    ∃ vs p b q, settle us s = { runAll vs s with prog := p, busy := b, useq := q } := by
  induction us generalizing s with
  | nil => exact ⟨[], [], false, none, rfl⟩
  | cons u us ih =>
    unfold settle
    split
    · obtain ⟨vs, p, b, q, h⟩ := ih (run u s)
      exact ⟨u :: vs, p, b, q, h⟩
    · exact ⟨[], u :: us, s.busy, s.useq, rfl⟩

theorem performNext_runs (us : List Uop) (s : State) :
    ∃ vs p b q, performNext us s = { runAll vs s with prog := p, busy := b, useq := q } := by
  induction us generalizing s with
  | nil => exact ⟨[], [], false, none, rfl⟩
  | cons u us ih =>
    unfold performNext
    split
    · obtain ⟨vs, p, b, q, h⟩ := settle_runs us (run u s)
      exact ⟨u :: vs, p, b, q, h⟩
    · obtain ⟨vs, p, b, q, h⟩ := ih (run u s)
      exact ⟨u :: vs, p, b, q, h⟩

theorem microStep_keepsRecord (s : State) : KeepsRecord s (microStep s) ∧ (microStep s).pending = s.pending := by
  obtain ⟨vs, p, b, q, h⟩ := performNext_runs s.prog s
  have hgrows := grows_runAll vs s
  rw [microStep, h]
  exact ⟨⟨hgrows.viol, hgrows.reasons, hgrows.ltrace, hgrows.wtrace⟩, hgrows.pending⟩

/-- R8: the whole of an operation is its list, run in the state that has accepted it. -/
theorem operate_eq_runAll (i : Instr) (s : State) :
    operate (scriptOf i) s = complete (runAll (scriptOf i (accept s)).1 (accept s)) := by
  rw [operate, follows_scriptOf]

theorem operate_keepsRecord (i : Instr) (s : State) : KeepsRecord s (operate (scriptOf i) s) := by
  have hgrows := grows_runAll (scriptOf i (accept s)).1 (accept s)
  rw [operate_eq_runAll]
  exact ⟨hgrows.viol, hgrows.reasons, hgrows.ltrace, hgrows.wtrace⟩

theorem step_keepsRecord {s t : State} (h : step s = .next t) : KeepsRecord s t := by
  rcases step_cases h with ⟨-, rfl⟩ | ⟨-, rfl⟩ | ⟨-, i, rest, hexec⟩
  · exact (microStep_keepsRecord s).1
  · exact (Grows.same _).keepsRecord
  · obtain rfl := Host.Outcome.next.inj ((exec_eq_operate i _).symm.trans hexec)
    obtain ⟨hviol, hreasons, hltrace, hwtrace⟩ := operate_keepsRecord i { s with pending := rest }
    exact ⟨hviol, hreasons, hltrace, hwtrace⟩

/-! Between two operations (R47 (a)) -/

theorem effect_prog (i : Instr) (s : State) : (effect i s).prog = s.prog := by cases i <;> rfl

/-- R147: an operation leaves the framer clear if it was clear. -/
theorem effect_framer_clear (i : Instr) {s : State} (h : s.shreg = 0x00#8 ∧ s.bitcnt = 0#4) :
    (effect i s).shreg = 0x00#8 ∧ (effect i s).bitcnt = 0#4 := by
  cases i
  case drvh | drvl | setDir | read | start | stop | dig2Seg | chr2Seg => exact h
  all_goals exact ⟨rfl, rfl⟩

/-- R144: a byte returns to `Idle` or `Framed`. -/
theorem afterByte_fstate (s : State) (v : Byte) : (s.afterByte v).fstate ≠ .transmitting := by
  simp only [State.afterByte]
  split <;> simp

/-- R29: no operation ends in `Transmitting`. -/
theorem effect_not_transmitting (i : Instr) {s : State} (h : s.fstate ≠ .transmitting) :
    (effect i s).fstate ≠ .transmitting := by
  cases i
  case drvh | drvl | setDir | read | dig2Seg | chr2Seg => exact h
  case wrByte | wireDataCmd | wireAddrCmd | wireCtrlCmd | wireSegByte => exact afterByte_fstate s _
  all_goals exact FState.noConfusion

theorem effect_isQuiet (i : Instr) {s : State} (h : s.isQuiet) : (effect i s).isQuiet := by
  obtain ⟨-, -, hprog, hshreg, hbitcnt, hfstate⟩ := h
  obtain ⟨hbusy, huseq⟩ := effect_free i s
  obtain ⟨hshreg', hbitcnt'⟩ := effect_framer_clear i ⟨hshreg, hbitcnt⟩
  exact ⟨hbusy, huseq, (effect_prog i s).trans hprog, hshreg', hbitcnt', effect_not_transmitting i hfstate⟩

/-- R236: a check keeps the flag and the reasons in agreement. -/
theorem ghostAgrees_violateIf (c : Bool) (r : Reason) {s : State} (h : s.ghostAgrees) :
    (violateIf c r s).ghostAgrees := by
  cases c with
  | false => exact h
  | true =>
    by_cases hr : r ∈ s.reasons
    · have hne : s.reasons ≠ [] := List.ne_nil_of_mem hr
      simp [State.ghostAgrees, hr, hne, h.2]
    · simp [State.ghostAgrees, hr, List.nodup_append, h.2]
      rintro q hq rfl
      exact hr hq

theorem checked_ghostAgrees (i : Instr) {s : State} (h : s.ghostAgrees) : (checked i s).ghostAgrees := by
  have hinit : (checkInit s).ghostAgrees := ghostAgrees_violateIf _ _ h
  cases i
  case drvh | drvl | setDir => exact ghostAgrees_violateIf true _ hinit
  case read => exact hinit
  case init => exact ghostAgrees_violateIf _ _ h
  case dig2Seg | chr2Seg => exact h
  all_goals exact ghostAgrees_violateIf _ _ hinit

end Sys2Proof.Machine

open Sys2Proof Sys2Proof.Machine

/-- Settles O4: the row of the opcode decides between the operation, which completes, and the refusal. -/
theorem reservedOpcodesRefused : Obligations.ReservedOpcodesRefused := by
  intro s w rest hbusy hpending
  have hfields : decode (.cmd w) = decodeFields (opField w) (aField w) (bField w) := rfl
  rcases opcodeRow_or_reserved (opField w) (aField w) (bField w) with ⟨i, ma, mb, row⟩ | ⟨hres, hdec⟩
  · have hnext : step s = .next (operate (scriptOf i) { s with pending := rest }) := by
      rw [step_of_word hbusy hpending, acceptWord_of_ok (hfields.trans row.decoded), exec_eq_operate]
    refine ⟨⟨fun h => absurd h row.free, fun h => ?_⟩, fun _ => ⟨_, hnext⟩, fun _ => row.free⟩
    simp [hnext] at h
  · have hrefused : step s = .refused (.reservedOpcode (opField w)) := by
      rw [step_of_word hbusy hpending, acceptWord_of_reserved (hfields.trans hdec)]
    refine ⟨⟨fun _ => hrefused, fun _ => hres⟩, fun h => absurd hres h, fun ⟨t, h⟩ => ?_⟩
    simp [hrefused] at h

/-- Settles O6: a free engine that is presented a word accepts it. -/
theorem stepRunsDecodedOperation : Obligations.StepRunsDecodedOperation := by
  intro s c rest i hbusy hpending hdec
  rw [step_of_word hbusy hpending, acceptWord_of_ok hdec]

/-- Settles O7: the placed word is at the head of what the host presents to a free engine. -/
theorem placedWordIsRun : Obligations.PlacedWordIsRun := by
  intro s nbits w i h
  obtain ⟨c, hcode, hdec⟩ := decodeTableWord_eq_some h
  have hpending : (s.withFetchWord nbits w).pending = c :: s.pending := by
    simp [State.withFetchWord, placeWord, hcode]
  rw [step_of_word rfl hpending, acceptWord_of_ok hdec]
  rfl

/-- Settles O8: with no word presented a free engine awaits one. -/
theorem noWordNoChange : Obligations.NoWordNoChange := fun _ hbusy hpending => step_of_no_word hbusy hpending

/-- Settles O9: a micro-step neither reads nor writes the host's words. -/
theorem wordsPresentedWhileBusyHaveNoEffect : Obligations.WordsPresentedWhileBusyHaveNoEffect := by
  intro s words hbusy
  refine ⟨_, step_of_busy hbusy, (microStep_keepsRecord s).2, ?_⟩
  have hwords : microStep { s with pending := words } = { microStep s with pending := words } :=
    performNext_with_pending s.prog s words
  exact (step_of_busy (s := { s with pending := words }) hbusy).trans (congrArg _ hwords)

/-- Settles O40: a quiet engine does not run, so a step is no step or a whole operation, which leaves it quiet and its
ghost record as the checks leave it. -/
theorem quietStateIsKept : Obligations.QuietStateIsKept := by
  intro s t hquiet hghost h
  rcases step_cases h with ⟨hbusy, -⟩ | ⟨-, rfl⟩ | ⟨-, i, rest, hexec⟩
  · simp [hquiet.1] at hbusy
  · exact ⟨hquiet, hghost⟩
  · obtain rfl := eq_of_exec hexec
    have hquiet' : State.isQuiet { s with pending := rest } := hquiet
    have hghost' : State.ghostAgrees { s with pending := rest } := hghost
    exact ⟨effect_isQuiet i hquiet', checked_ghostAgrees i hghost'⟩

/-- Settles O41: the reset state names these fields. -/
theorem resetIsQuiet : Obligations.ResetIsQuiet :=
  ⟨⟨rfl, rfl, rfl, rfl, rfl, FState.noConfusion⟩, ⟨Bool.noConfusion, absurd rfl⟩, List.nodup_nil⟩

/-- Settles O42: whatever a step runs, micro-operations only add to the ghost record. -/
theorem violationIsSticky : Obligations.ViolationIsSticky := fun _ _ h =>
  ⟨(step_keepsRecord h).viol, (step_keepsRecord h).reasons⟩

/-- Settles O43: whatever a step runs, micro-operations only append to the traces. -/
theorem tracesOnlyGrow : Obligations.TracesOnlyGrow := fun _ _ h =>
  ⟨(step_keepsRecord h).ltrace, (step_keepsRecord h).wtrace⟩

end

section
/-! Micro-steps (10_state.md R24, 70_reset_and_hazards.md R281): the micro-sequencer ends where `exec` does, every
micro-step is one event of the line trace, and what the counts of the traffic are. -/

namespace Sys2Proof.Machine

/-! The micro-sequencer and the operation (R8) -/

/-- An operation run to completion leaves no list, if none was loaded. -/
theorem operate_eq_complete_runAll (i : Instr) {s : State} (h : s.prog = []) :
    operate (scriptOf i) s = complete { runAll (scriptOf i (accept s)).1 (accept s) with prog := [] } := by
  have hprog : (runAll (scriptOf i (accept s)).1 (accept s)).prog = [] := (grows_runAll _ _).prog.trans h
  rw [operate_eq_runAll, ← hprog]

/-- R8, R24: the micro-sequencer is busy, and counts, until the last micro-step, which leads where `exec` leads. -/
theorem microSteps_begin (i : Instr) {s : State} (h : s.prog = []) {n : Nat}
    (hn : n = microCount (scriptOf i (accept s)).1) :
    microSteps n (begin i s) = operate (scriptOf i) s
      ∧ ∀ k, k < n → (microSteps k (begin i s)).busy = true ∧ (microSteps k (begin i s)).useq = some k := by
  rw [operate_eq_complete_runAll i h]
  rcases settle_spec (scriptOf i (accept s)).1 (accept s) (ends_scriptOf i (accept s)) with
    ⟨hzero, hdone⟩ | ⟨hpos, vs, t, hbegin, hends, hcount, hrun, hbusy, huseq⟩
  · obtain rfl : n = 0 := hn.trans hzero
    exact ⟨hdone, fun k hk => absurd hk (Nat.not_lt_zero k)⟩
  · obtain ⟨m, rfl⟩ : ∃ m, n = m + 1 := Nat.exists_eq_succ_of_ne_zero (by omega)
    have hbegin' : begin i s = { t with prog := vs } := hbegin
    obtain ⟨hlast, hbefore⟩ := microSteps_spec m vs t 0 (by omega) hends hbusy huseq
    refine ⟨by rw [hbegin', hlast, hrun], fun k hk => ?_⟩
    obtain ⟨hk1, hk2⟩ := hbefore k (by omega)
    rw [hbegin']
    exact ⟨hk1, by rw [hk2, Nat.zero_add]⟩

/-! Micro-steps are line events and delays (R24) -/

theorem run_ltrace_length (u : Uop) (s : State) :
    (run u s).ltrace.length = s.ltrace.length + if timing u = .micro then 1 else 0 := by
  cases u <;> simp [run, timing, sampleLine, checkInit, checkNoFrame, checkFrame, checkPins, latchAck]

theorem runAll_ltrace_length (us : List Uop) (s : State) :
    (runAll us s).ltrace.length = s.ltrace.length + microCount us := by
  induction us generalizing s with
  | nil => rfl
  | cons u us ih => rw [runAll_cons, ih, run_ltrace_length, microCount_cons]; omega

/-- R24: the micro-steps of an operation are the events it appends to the line trace. -/
theorem effect_ltrace_length (i : Instr) (s : State) :
    (effect i s).ltrace.length = s.ltrace.length + microCount (scriptOf i (accept s)).1 := by
  have hrun := runAll_ltrace_length (scriptOf i (accept s)).1 (accept s)
  have hsame : (operate (scriptOf i) s).ltrace = (effect i s).ltrace := by rw [operate_scriptOf]; rfl
  rw [operate_eq_runAll] at hsame
  exact (congrArg List.length hsame).symm.trans hrun

/-! Counts of the traffic (R187) -/

/-- The frames of one byte in some traffic. -/
def singles (tr : List Traffic) : Nat := tr.countP fun x => match x with | .single _ => true | .dataWrite _ _ => false

/-- The data-write transactions in some traffic. -/
def writes (tr : List Traffic) : Nat := tr.countP fun x => match x with | .single _ => false | .dataWrite _ _ => true

@[simp] theorem singles_nil : singles [] = 0 := rfl
@[simp] theorem writes_nil : writes [] = 0 := rfl
@[simp] theorem singles_single (v : Byte) (tr : List Traffic) : singles (.single v :: tr) = singles tr + 1 := by
  simp [singles]
@[simp] theorem singles_dataWrite (p : Pos) (v : Byte) (tr : List Traffic) :
    singles (.dataWrite p v :: tr) = singles tr := by simp [singles]
@[simp] theorem writes_single (v : Byte) (tr : List Traffic) : writes (.single v :: tr) = writes tr := by
  simp [writes]
@[simp] theorem writes_dataWrite (p : Pos) (v : Byte) (tr : List Traffic) :
    writes (.dataWrite p v :: tr) = writes tr + 1 := by simp [writes]
@[simp] theorem singles_append (a b : List Traffic) : singles (a ++ b) = singles a + singles b := List.countP_append
@[simp] theorem writes_append (a b : List Traffic) : writes (a ++ b) = writes a + writes b := List.countP_append

@[simp] theorem byteCount_append (a b : List Sym) : byteCount (a ++ b) = byteCount a + byteCount b :=
  List.countP_append
@[simp] theorem frameCount_append (a b : List Sym) : frameCount (a ++ b) = frameCount a + frameCount b :=
  List.countP_append

theorem byteCount_trafficSyms (s : State) (k : Nat) (tr : List Traffic) :
    byteCount (trafficSyms s k tr) = singles tr + 3 * writes tr := by
  induction tr generalizing k with
  | nil => rfl
  | cons x tr ih =>
    cases x with
    | single v =>
      have hone : byteCount (oneByteFrame v (s.answer k)) = 1 := rfl
      simp only [trafficSyms, byteCount_append, hone, ih, singles_single, writes_single]; omega
    | dataWrite p v =>
      have hthree : byteCount (dataWriteFrames p v (s.answer k) (s.answer (k + 1)) (s.answer (k + 2))) = 3 := rfl
      simp only [trafficSyms, byteCount_append, hthree, ih, singles_dataWrite, writes_dataWrite]; omega

theorem frameCount_trafficSyms (s : State) (k : Nat) (tr : List Traffic) :
    frameCount (trafficSyms s k tr) = singles tr + 2 * writes tr := by
  induction tr generalizing k with
  | nil => rfl
  | cons x tr ih =>
    cases x with
    | single v =>
      have hone : frameCount (oneByteFrame v (s.answer k)) = 1 := rfl
      simp only [trafficSyms, frameCount_append, hone, ih, singles_single, writes_single]; omega
    | dataWrite p v =>
      have htwo : frameCount (dataWriteFrames p v (s.answer k) (s.answer (k + 1)) (s.answer (k + 2))) = 2 := rfl
      simp only [trafficSyms, frameCount_append, htwo, ih, singles_dataWrite, writes_dataWrite]; omega

theorem lineEventCount_trafficEvents (s : State) (k j : Nat) (tr : List Traffic) :
    lineEventCount (trafficEvents s k j tr) = 37 * singles tr + 104 * writes tr := by
  induction tr generalizing k j with
  | nil => rfl
  | cons x tr ih =>
    cases x <;> simp [trafficEvents, dataWriteWave, lineEventCount_commandWave, ih] <;> omega

theorem delayCount_trafficEvents (s : State) (k j : Nat) (tr : List Traffic) :
    delayCount (trafficEvents s k j tr) = 23 * singles tr + 65 * writes tr := by
  induction tr generalizing k j with
  | nil => rfl
  | cons x tr ih =>
    cases x <;> simp [trafficEvents, dataWriteWave, delayCount_commandWave, ih] <;> omega

@[simp] theorem lineEventCount_nil : lineEventCount [] = 0 := rfl
@[simp] theorem delayCount_nil : delayCount [] = 0 := rfl

/-- Every event is a line event or a delay. -/
theorem length_eq_lineEventCount_add_delayCount (es : List Event) :
    es.length = lineEventCount es + delayCount es := by
  induction es with
  | nil => rfl
  | cons e es ih =>
    by_cases h : e = .dly <;> simp_all [lineEventCount, delayCount, functional] <;> omega

/-- R174: WRSEG sends one control byte, and a data-write transaction unless the cache holds the byte. -/
theorem counts_segmentTraffic (s : State) (p : Pos) (v : Byte) :
    singles (s.segmentTraffic p v) = 1
      ∧ writes (s.segmentTraffic p v) = if v = s.buf.get p then 0 else 1 := by
  by_cases h : v = s.buf.get p <;> simp [State.segmentTraffic, h]

theorem counts_blankTraffic (p : Pos) (old ctrl : Byte) :
    singles (blankTraffic p old ctrl) = 1
      ∧ writes (blankTraffic p old ctrl) = [old].countP fun v => v ≠ 0x00#8 := by
  by_cases h : old = 0x00#8 <;> simp [blankTraffic, h]

/-- R182: CLEAR sends five control bytes, and a data-write transaction more than it finds lit cells. -/
theorem counts_clearTraffic (b : Cells) (ctrl : Byte) :
    singles (clearTraffic b ctrl) = 5 ∧ writes (clearTraffic b ctrl) = 1 + clearCount b := by
  constructor
  · simp [clearTraffic, fun p old c => (counts_blankTraffic p old c).1]
  · simp only [clearTraffic, writes_append, writes_dataWrite, writes_single, writes_nil,
      fun p old c => (counts_blankTraffic p old c).2, clearCount, List.countP_cons, List.countP_nil]
    omega

/-- R182, R187: at most four cells are lit. -/
theorem clearCount_le (b : Cells) : clearCount b ≤ 4 := List.countP_le_length

/-- R187: the micro-steps some traffic takes. -/
theorem length_trafficEvents (s : State) (k j : Nat) (tr : List Traffic) :
    (trafficEvents s k j tr).length = 60 * singles tr + 169 * writes tr := by
  rw [length_eq_lineEventCount_add_delayCount, lineEventCount_trafficEvents, delayCount_trafficEvents]
  omega

/-- R187: the five counts of an operation that sends some traffic, from a state it has made `events` to prepare. -/
theorem counts_of_sending {i : Instr} {s t u : State} {events : List Event} {tr : List Traffic} {b : Cells} {c : Bool}
    (h : exec i s = .next t) (heffect : effect i s = afterSending u tr b c) (hwtrace : u.wtrace = s.wtrace)
    (hltrace : u.ltrace = s.ltrace ++ events) :
    (frameCount (t.wtrace.drop s.wtrace.length), byteCount (t.wtrace.drop s.wtrace.length),
        lineEventCount (t.ltrace.drop s.ltrace.length), delayCount (t.ltrace.drop s.ltrace.length),
        microCount (scriptOf i (accept s)).1)
      = (singles tr + 2 * writes tr, singles tr + 3 * writes tr,
        lineEventCount events + (37 * singles tr + 104 * writes tr),
        delayCount events + (23 * singles tr + 65 * writes tr),
        events.length + (60 * singles tr + 169 * writes tr)) := by
  obtain rfl := eq_of_exec h
  have hw : ((effect i s).withGhostOf (checked i s)).wtrace = s.wtrace ++ trafficSyms u 0 tr := by
    rw [heffect, ← hwtrace]; rfl
  have hl : (effect i s).ltrace = s.ltrace ++ (events ++ trafficEvents u 0 0 tr) := by
    rw [heffect, ← List.append_assoc, ← hltrace]; rfl
  have hl' : ((effect i s).withGhostOf (checked i s)).ltrace = s.ltrace ++ (events ++ trafficEvents u 0 0 tr) := hl
  have hmicro := effect_ltrace_length i s
  rw [hl, List.length_append, List.length_append, length_trafficEvents] at hmicro
  rw [hw, hl', List.drop_left, List.drop_left, frameCount_trafficSyms, byteCount_trafficSyms, lineEventCount_append,
    delayCount_append, lineEventCount_trafficEvents, delayCount_trafficEvents, Nat.add_left_cancel hmicro]

theorem length_startWave (d : Bool) : (startWave d).length = 4 := by cases d <;> rfl

/-- R280: what some traffic adds to the line trace. -/
theorem length_ltrace_afterSending (u : State) (tr : List Traffic) (b : Cells) (c : Bool) :
    (afterSending u tr b c).ltrace.length = u.ltrace.length + (60 * singles tr + 169 * writes tr) := by
  rw [← length_trafficEvents u 0 0 tr, ← List.length_append]
  rfl

theorem length_ltrace_afterWrSeg_le (s : State) (pos raw : Byte) :
    (s.afterWrSeg pos raw).ltrace.length ≤ s.ltrace.length + 229 := by
  rw [State.afterWrSeg, length_ltrace_afterSending, (counts_segmentTraffic _ _ _).1, (counts_segmentTraffic _ _ _).2]
  split <;> omega

theorem length_ltrace_afterByte (s : State) (v : Byte) :
    (s.afterByte v).ltrace.length = s.ltrace.length + 49 := List.length_append

/-- R281: no operation appends more than INIT with four lit cells. -/
theorem effect_ltrace_length_le (i : Instr) (s : State) : (effect i s).ltrace.length ≤ s.ltrace.length + 1149 := by
  cases i
  case drvh | drvl | setDir | read | stop | dig2Seg | chr2Seg => simp [effect, delivered, stopWave]
  case start => simp [effect, delivered, length_startWave]
  case wrByte | wireDataCmd | wireAddrCmd | wireCtrlCmd | wireSegByte =>
    rw [effect, length_ltrace_afterByte]; omega
  case wrSeg | dispDigit => exact (length_ltrace_afterWrSeg_le s _ _).trans (by omega)
  case command | setColon | setBrt | setEn => simp [effect, length_ltrace_afterSending]
  case clear =>
    have hk := clearCount_le s.buf
    rw [effect, length_ltrace_afterSending, (counts_clearTraffic _ _).1, (counts_clearTraffic _ _).2]
    omega
  case init c d =>
    have hk := clearCount_le s.buf
    have hinit : (s.initialised c d).ltrace.length = s.ltrace.length + 4 := List.length_append
    rw [effect, length_ltrace_afterSending, (counts_clearTraffic _ _).1, (counts_clearTraffic _ _).2, hinit]
    omega

theorem microCount_scriptOf_le (i : Instr) (s : State) : microCount (scriptOf i (accept s)).1 ≤ 1149 := by
  have hlen := effect_ltrace_length i s
  have hle := effect_ltrace_length_le i s
  omega

end Sys2Proof.Machine

open Sys2Proof Sys2Proof.Machine

/-- Settles O47: `microSteps_begin`, with `exec` as the operation's script. -/
theorem microSequencerRefinesOperations : Obligations.MicroSequencerRefinesOperations := by
  intro i s n hprog hn
  obtain ⟨hlast, hbefore⟩ := microSteps_begin i hprog hn
  exact ⟨by rw [exec_eq_operate, hlast], hbefore⟩

/-- Settles O48: the micro-steps of an operation are the events it appends, which INIT appends most of. -/
theorem atMost1149MicroSteps : Obligations.AtMost1149MicroSteps := by
  intro i s hprog
  obtain ⟨hlast, -⟩ := microSteps_begin i hprog rfl
  exact ⟨_, microCount_scriptOf_le i s, by rw [exec_eq_operate, hlast], by rw [hlast]; rfl⟩

/-- Settles O33: the traffic of each operation by its one-byte frames and its data-write transactions. -/
theorem trafficCounts : Obligations.TrafficCounts := by
  intro s t i x k h counts
  have hnone : s.ltrace = s.ltrace ++ [] := (List.append_nil _).symm
  refine ⟨?_, ?_, ?_, ?_, ?_, ?_, ?_⟩
  · rintro a raw rfl rfl
    refine (counts_of_sending h rfl rfl hnone).trans ?_
    rw [(counts_segmentTraffic _ _ _).1, (counts_segmentTraffic _ _ _).2]
    simp
  · rintro a d rfl rfl
    refine (counts_of_sending h rfl rfl hnone).trans ?_
    rw [(counts_segmentTraffic _ _ _).1, (counts_segmentTraffic _ _ _).2]
    simp
  · rintro f rfl
    exact (counts_of_sending h rfl rfl hnone).trans rfl
  · rintro v rfl
    exact (counts_of_sending h rfl rfl hnone).trans rfl
  · rintro f rfl
    exact (counts_of_sending h rfl rfl hnone).trans rfl
  · rintro rfl rfl
    refine (counts_of_sending h rfl rfl hnone).trans ?_
    rw [(counts_clearTraffic _ _).1, (counts_clearTraffic _ _).2]
    simp only [lineEventCount_nil, delayCount_nil, List.length_nil, Prod.mk.injEq]
    omega
  · rintro c d rfl rfl
    have hinit : lineEventCount [.dir .clk .output, .dly, .dir .dio .output, .dly] = 2
      ∧ delayCount [.dir .clk .output, .dly, .dir .dio .output, .dly] = 2 := by decide
    refine (counts_of_sending h rfl rfl rfl).trans ?_
    rw [(counts_clearTraffic _ _).1, (counts_clearTraffic _ _).2, hinit.1, hinit.2]
    simp only [List.length_cons, List.length_nil, Prod.mk.injEq]
    omega

end

section
/-! Within a WRBYTE (10_state.md sections 3 and 4, 41_frame_protocol.md R144 to R146): the frame state, the direction of
the data line and the bit count, micro-step by micro-step. -/

namespace Sys2Proof.Machine

theorem microSteps_add (j k : Nat) (s : State) : microSteps (j + k) s = microSteps k (microSteps j s) := by
  induction j generalizing s with
  | zero => rw [Nat.zero_add, microSteps]
  | succ j ih => rw [Nat.succ_add, microSteps, microSteps, ih]

/-- R22, R26, R29: a byte is being sent, `n` bits of it are, and the data line has this direction. -/
structure Sending (d : Dir) (n : BitVec 4) (s : State) : Prop where
  fstate : s.fstate = .transmitting
  dir : s.dir.dio = d
  bitcnt : s.bitcnt = n

/-- The next micro-step performs this list in a state that is sending. -/
def Awaits (d : Dir) (us : List Uop) (n : BitVec 4) (t : State) : Prop :=
  ∃ t', microStep t = performNext us t' ∧ Sending d n t'

/-- A micro-step that another one follows. -/
theorem awaits_microStep {d e : Dir} {u v : Uop} {rest : List Uop} {n : BitVec 4} {t : State}
    (h : Awaits d (u :: v :: rest) n t) (hu : timing u = .micro) (hv : timing v = .micro)
    (hrun : ∀ s, Sending d n s → Sending e n (run u s)) :
    Sending e n (microStep t) ∧ Awaits e (v :: rest) n (microStep t) := by
  obtain ⟨t', hnext, hsending⟩ := h
  have hstep : microStep t = { run u t' with prog := v :: rest } := by
    simp [hnext, performNext, settle, hu, hv]
  obtain ⟨hfstate, hdir, hbitcnt⟩ := hrun t' hsending
  rw [hstep]
  exact ⟨⟨hfstate, hdir, hbitcnt⟩, _, rfl, hfstate, hdir, hbitcnt⟩

/-- A line event of the other kinds, and a delay, leave the frame state, the directions and the bit count alone. -/
theorem awaits_event {d : Dir} {u v : Uop} {rest : List Uop} {n : BitVec 4} {t : State}
    (h : Awaits d (u :: v :: rest) n t) (hv : timing v = .micro)
    (hu : (∃ l b, u = .drv l b) ∨ u = .drvBit ∨ u = .dly ∨ ∃ l, u = .read l) :
    Sending d n (microStep t) ∧ Awaits d (v :: rest) n (microStep t) := by
  refine awaits_microStep h ?_ hv fun s hs => ?_
  · rcases hu with ⟨l, b, rfl⟩ | rfl | rfl | ⟨l, rfl⟩ <;> rfl
  · obtain ⟨hfstate, hdir, hbitcnt⟩ := hs
    rcases hu with ⟨l, b, rfl⟩ | rfl | rfl | ⟨l, rfl⟩ <;> exact ⟨hfstate, hdir, hbitcnt⟩

/-- R146: `A2` and `A9` turn the data line around. -/
theorem awaits_setDir {d e : Dir} {v : Uop} {rest : List Uop} {n : BitVec 4} {t : State}
    (h : Awaits d (.setDir .dio e :: v :: rest) n t) (hv : timing v = .micro) :
    Sending e n (microStep t) ∧ Awaits e (v :: rest) n (microStep t) :=
  awaits_microStep h rfl hv fun _ hs => ⟨hs.fstate, rfl, hs.bitcnt⟩

/-- R144, log 15: the bit is counted with the last micro-step of its turn. -/
theorem awaits_shift {d : Dir} {v : Uop} {rest : List Uop} {n : BitVec 4} {t : State}
    (h : Awaits d (.dly :: .shift :: v :: rest) n t) (hv : timing v = .micro) :
    Sending d (n + 1#4) (microStep t) ∧ Awaits d (v :: rest) (n + 1#4) (microStep t) := by
  obtain ⟨t', hnext, hfstate, hdir, hbitcnt⟩ := h
  have hdly : timing .dly = .micro := rfl
  have hshift : timing .shift = .withLast := rfl
  have hstep : microStep t = { run .shift (run .dly t') with prog := v :: rest } := by
    simp [hnext, performNext, settle, hdly, hshift, hv]
  have hcount : (run .shift (run .dly t')).bitcnt = n + 1#4 := congrArg (· + 1#4) hbitcnt
  rw [hstep]
  exact ⟨⟨hfstate, hdir, hcount⟩, _, rfl, hfstate, hdir, hcount⟩

/-- R145: one turn of the bit loop. -/
theorem bitTurn {t : State} {n : BitVec 4} {l : Line} {b : Bit} {rest : List Uop}
    (h : Awaits .output (bitUops ++ .drv l b :: rest) n t) :
    (∀ j, 1 ≤ j → j < 5 → Sending .output n (microSteps j t))
      ∧ Sending .output (n + 1#4) (microSteps 5 t)
      ∧ Awaits .output (.drv l b :: rest) (n + 1#4) (microSteps 5 t) := by
  obtain ⟨h1, w1⟩ := awaits_event h rfl (.inl ⟨_, _, rfl⟩)
  obtain ⟨h2, w2⟩ := awaits_event w1 rfl (.inr (.inl rfl))
  obtain ⟨h3, w3⟩ := awaits_event w2 rfl (.inr (.inr (.inl rfl)))
  obtain ⟨h4, w4⟩ := awaits_event w3 rfl (.inl ⟨_, _, rfl⟩)
  refine ⟨fun j hpos hlt => ?_, awaits_shift w4 rfl⟩
  obtain rfl | rfl | rfl | rfl : j = 1 ∨ j = 2 ∨ j = 3 ∨ j = 4 := by omega
  exacts [h1, h2, h3, h4]

/-- R145: the bit loop, as `m` turns. -/
def bitTurns (m : Nat) : List Uop := (List.replicate m bitUops).flatten

theorem bitTurns_succ (m : Nat) : bitTurns (m + 1) = bitUops ++ bitTurns m := rfl

/-- After the turns stands a drive, of the clock: the next turn's first, or the one that follows the loop. -/
theorem bitTurns_append_eq_drv (m : Nat) (rest : List Uop) :
    ∃ rest', bitTurns m ++ .drv .clk false :: rest = .drv .clk false :: rest' := by
  cases m with
  | zero => exact ⟨rest, rfl⟩
  | succ m => exact ⟨_, rfl⟩

/-- R23, R145: within the bit loop the bits sent are the whole turns. -/
theorem bitTurns_sending {m : Nat} {t : State} {n : BitVec 4} {rest : List Uop}
    (h : Awaits .output (bitTurns m ++ .drv .clk false :: rest) n t) :
    (∀ k, 1 ≤ k → k ≤ 5 * m → Sending .output (n + BitVec.ofNat 4 (k / 5)) (microSteps k t))
      ∧ Awaits .output (.drv .clk false :: rest) (n + BitVec.ofNat 4 m) (microSteps (5 * m) t) := by
  induction m generalizing t n with
  | zero => exact ⟨fun k hpos hle => by omega, by simpa [bitTurns, microSteps] using h⟩
  | succ m ih =>
    obtain ⟨rest', hrest'⟩ := bitTurns_append_eq_drv m rest
    rw [bitTurns_succ, List.append_assoc, hrest'] at h
    obtain ⟨hwithin, hlast, hawaits⟩ := bitTurn h
    rw [← hrest'] at hawaits
    obtain ⟨hlater, hend⟩ := ih hawaits
    have hnat : ∀ k, n + 1#4 + BitVec.ofNat 4 k = n + BitVec.ofNat 4 (k + 1) := fun k => by
      rw [BitVec.add_assoc, BitVec.add_comm 1#4, BitVec.ofNat_add]
    refine ⟨fun k hpos hle => ?_, ?_⟩
    · rcases Nat.lt_trichotomy k 5 with hlt | rfl | hgt
      · have hzero : k / 5 = 0 := by omega
        simpa [hzero] using hwithin k hpos hlt
      · exact hlast
      · obtain ⟨j, rfl⟩ : ∃ j, k = 5 + j := ⟨k - 5, by omega⟩
        have hdiv : (5 + j) / 5 = j / 5 + 1 := by omega
        rw [microSteps_add, hdiv, ← hnat]
        exact hlater j (by omega) (by omega)
    · rw [← hnat, Nat.mul_succ, Nat.add_comm (5 * m) 5, microSteps_add]
      exact hend

/-- R146: within the ACK slot the data line is an input from `A2` on. -/
theorem ackSlot_sending {t : State} {n : BitVec 4} {rest : List Uop} (h : Awaits .output (ackSlot ++ rest) n t) :
    Sending .output n (microSteps 1 t) ∧ ∀ j, 2 ≤ j → j < 9 → Sending .input n (microSteps j t) := by
  obtain ⟨h1, w1⟩ := awaits_event h rfl (.inl ⟨_, _, rfl⟩)
  obtain ⟨h2, w2⟩ := awaits_setDir w1 rfl
  obtain ⟨h3, w3⟩ := awaits_event w2 rfl (.inr (.inr (.inl rfl)))
  obtain ⟨h4, w4⟩ := awaits_event w3 rfl (.inr (.inr (.inr ⟨_, rfl⟩)))
  obtain ⟨h5, w5⟩ := awaits_event w4 rfl (.inr (.inr (.inl rfl)))
  obtain ⟨h6, w6⟩ := awaits_event w5 rfl (.inl ⟨_, _, rfl⟩)
  obtain ⟨h7, w7⟩ := awaits_event w6 rfl (.inr (.inr (.inl rfl)))
  obtain ⟨h8, -⟩ := awaits_event w7 rfl (.inl ⟨_, _, rfl⟩)
  refine ⟨h1, fun j hpos hlt => ?_⟩
  obtain rfl | rfl | rfl | rfl | rfl | rfl | rfl :
    j = 2 ∨ j = 3 ∨ j = 4 ∨ j = 5 ∨ j = 6 ∨ j = 7 ∨ j = 8 := by omega
  exacts [h2, h3, h4, h5, h6, h7, h8]

/-- R144: the checks and the loading of the byte go with the first micro-step of the bit loop. -/
theorem begin_wrByte_awaits (v : Byte) {s : State} (h : s.dir.dio = .output) :
    ∃ rest, Awaits .output (bitTurns 8 ++ (ackSlot ++ rest)) 0#4 (begin (.wrByte v) s) := by
  refine ⟨_, run (.enterByte v) (run (.checkFrame .byteOutsideFrame) (run .checkInit (begin (.wrByte v) s))), rfl, rfl,
    ?_, rfl⟩
  have hdir : (begin (.wrByte v) s).dir = s.dir := rfl
  simp [run, checkFrame, checkInit, hdir, h]

end Sys2Proof.Machine

open Sys2Proof Sys2Proof.Machine

/-- Settles O49: forty micro-steps of bit loop, five to a bit, then the ACK slot, which turns the data line around with
its second. -/
theorem transmittingAndTurnAround : Obligations.TransmittingAndTurnAround := by
  intro v s k hdir hpos hlt
  obtain ⟨rest, hawaits⟩ := begin_wrByte_awaits v hdir
  obtain ⟨hbits, hack⟩ := bitTurns_sending (m := 8) hawaits
  obtain ⟨hfirst, hinput⟩ := ackSlot_sending hack
  rcases Nat.lt_trichotomy k 41 with hbit | rfl | hslot
  · obtain ⟨hfstate, hout, hbitcnt⟩ := hbits k hpos (by omega)
    refine ⟨hfstate, by simp [hout]; omega, ?_⟩
    rw [hbitcnt, BitVec.zero_add]
    split
    · rfl
    · obtain rfl : k = 40 := by omega
      rfl
  · obtain ⟨hfstate, hout, hbitcnt⟩ := hfirst
    rw [← microSteps_add] at hfstate hout hbitcnt
    exact ⟨hfstate, by simp [hout], hbitcnt⟩
  · obtain ⟨j, rfl⟩ : ∃ j, k = 40 + j := ⟨k - 40, by omega⟩
    obtain ⟨hfstate, hin, hbitcnt⟩ := hinput j (by omega) (by omega)
    rw [← microSteps_add] at hfstate hin hbitcnt
    exact ⟨hfstate, by simp [hin]; omega, by rw [hbitcnt, if_neg (by omega)]; rfl⟩

end

section
/-! Runs of operations and the write table (10_state.md section 12, 42_display_state.md sections 2 and 3): what a run
keeps if every operation of it does, which registers each operation leaves alone, and writes of the display that follow
one another. -/

namespace Sys2Proof.Machine

/-- The state an operation leads to, its ghost record included. -/
def performed (i : Instr) (s : State) : State := (effect i s).withGhostOf (checked i s)

theorem exec_eq_performed (i : Instr) (s : State) : exec i s = .next (performed i s) := exec_eq_effect i s

theorem eq_performed_of_exec {i : Instr} {s t : State} (h : exec i s = .next t) : t = performed i s := eq_of_exec h

@[simp] theorem execAll_nil (s : State) : execAll [] s = .next s := rfl

@[simp] theorem execAll_cons (i : Instr) (is : List Instr) (s : State) :
    execAll (i :: is) s = execAll is (performed i s) := by
  rw [execAll, exec_eq_performed]

/-- A run keeps what each of its operations keeps. -/
theorem execAll_keeps {P : State → Prop} {is : List Instr} (hkeeps : ∀ i ∈ is, ∀ s, P s → P (performed i s))
    {s : State} (h : P s) : ∃ t, execAll is s = .next t ∧ P t := by
  induction is generalizing s with
  | nil => exact ⟨s, rfl, h⟩
  | cons i is ih =>
    obtain ⟨hi, hrest⟩ := List.forall_mem_cons.mp hkeeps
    rw [execAll_cons]
    exact ih hrest (hi s h)

/-! Who writes what (R46) -/

theorem performed_model_fields (i : Instr) (s : State) :
    (performed i s).cfg = s.cfg ∧ (performed i s).oracle = s.oracle ∧ (performed i s).pending = s.pending
      ∧ (performed i s).prog = s.prog := by
  cases i <;> exact ⟨rfl, rfl, rfl, rfl⟩

theorem performed_pins {i : Instr} (h : ∀ c d, i ≠ .init c d) (s : State) :
    (performed i s).clkPin = s.clkPin ∧ (performed i s).dioPin = s.dioPin ∧ (performed i s).inited = s.inited := by
  cases i
  case init c d => exact absurd rfl (h c d)
  all_goals exact ⟨rfl, rfl, rfl⟩

theorem performed_dir_clk {i : Instr} (h : ∀ c d, i ≠ .init c d) (h' : ∀ d, i ≠ .setDir .clk d) (s : State) :
    (performed i s).dir.clk = s.dir.clk := by
  cases i
  case init c d => exact absurd rfl (h c d)
  case setDir l d =>
    cases l with
    | clk => exact absurd rfl (h' d)
    | dio => rfl
  all_goals rfl

theorem performed_brightness {i : Instr} (h : ∀ v, i ≠ .setBrt v) (h' : ∀ c d, i ≠ .init c d) (s : State) :
    (performed i s).brightness = s.brightness := by
  cases i
  case setBrt v => exact absurd rfl (h v)
  case init c d => exact absurd rfl (h' c d)
  all_goals rfl

theorem performed_enabled {i : Instr} (h : ∀ f, i ≠ .setEn f) (h' : ∀ c d, i ≠ .init c d) (s : State) :
    (performed i s).enabled = s.enabled := by
  cases i
  case setEn f => exact absurd rfl (h f)
  case init c d => exact absurd rfl (h' c d)
  all_goals rfl

theorem performed_colon {i : Instr} (h : ∀ f, i ≠ .setColon f) (h' : i ≠ .clear) (h'' : ∀ c d, i ≠ .init c d)
    (s : State) : (performed i s).colon = s.colon := by
  cases i
  case setColon f => exact absurd rfl (h f)
  case clear => exact absurd rfl h'
  case init c d => exact absurd rfl (h'' c d)
  all_goals rfl

/-- The frame state and the wire trace are written by what sends a symbol. -/
theorem performed_fstate_wtrace (i : Instr) (s : State) :
    Instr.isFrameSafe i ∨ i = .start ∨ i = .stop ∨ (∃ v, i = .wrByte v) ∨ (∃ slot v, encode i = .wire slot v)
      ∨ ((performed i s).fstate = s.fstate ∧ (performed i s).wtrace = s.wtrace) := by
  cases i
  case drvh | drvl | setDir | read => exact .inr (.inr (.inr (.inr (.inr ⟨rfl, rfl⟩))))
  case start => exact .inr (.inl rfl)
  case stop => exact .inr (.inr (.inl rfl))
  case wrByte v => exact .inr (.inr (.inr (.inl ⟨v, rfl⟩)))
  case wireDataCmd | wireAddrCmd | wireCtrlCmd | wireSegByte =>
    exact .inr (.inr (.inr (.inr (.inl ⟨_, _, rfl⟩))))
  case command => exact .inl (.inr rfl)
  all_goals exact .inl (.inl rfl)

/-- `ack_q` and the bit-framer are written by what sends a byte. -/
theorem performed_framer (i : Instr) (s : State) :
    Instr.isFrameSafe i ∨ (∃ v, i = .wrByte v) ∨ (∃ slot v, encode i = .wire slot v)
      ∨ ((performed i s).ackQ = s.ackQ ∧ (performed i s).shreg = s.shreg ∧ (performed i s).bitcnt = s.bitcnt) := by
  cases i
  case drvh | drvl | setDir | read | start | stop => exact .inr (.inr (.inr ⟨rfl, rfl, rfl⟩))
  case wrByte v => exact .inr (.inl ⟨v, rfl⟩)
  case wireDataCmd | wireAddrCmd | wireCtrlCmd | wireSegByte => exact .inr (.inr (.inl ⟨_, _, rfl⟩))
  case command => exact .inl (.inr rfl)
  all_goals exact .inl (.inl rfl)

/-- A cell that a write does not name is as before. -/
theorem get_set_eq_or (b : Cells) (p q : Pos) (v : Byte) : (b.set q v).get p = b.get p ∨ q = p := by
  by_cases h : p = q
  · exact .inr h.symm
  · exact .inl (Cells.get_set_other b v h)

theorem blankCells_get (p : Pos) : blankCells.get p = 0x00#8 := by
  revert p; decide

/-- R174, R177, R182, R183, R186: each cell is written by the operations that name its position, or all positions. -/
theorem performed_buf_get (i : Instr) (s : State) (p : Pos) :
    (performed i s).buf.get p = s.buf.get p
      ∨ (∃ a b, (i = .wrSeg a b ∨ i = .dispDigit a b) ∧ a.extractLsb' 0 2 = p)
      ∨ ((∃ f, i = .setColon f) ∧ p = 1#2) ∨ i = .clear ∨ ∃ c d, i = .init c d := by
  cases i
  case wrSeg a b => exact (get_set_eq_or s.buf p (position a) _).imp id fun h => .inl ⟨a, b, .inl rfl, h⟩
  case dispDigit a d => exact (get_set_eq_or s.buf p (position a) _).imp id fun h => .inl ⟨a, d, .inr rfl, h⟩
  case setColon f => exact (get_set_eq_or s.buf p 1#2 _).imp id fun h => .inr (.inl ⟨⟨f, rfl⟩, h.symm⟩)
  case clear => exact .inr (.inr (.inr (.inl rfl)))
  case init c d => exact .inr (.inr (.inr (.inr ⟨c, d, rfl⟩)))
  all_goals exact .inl rfl

/-- R274: the display registers are those of an earlier state. -/
def SameDisplay (s t : State) : Prop :=
  t.buf = s.buf ∧ t.brightness = s.brightness ∧ t.enabled = s.enabled ∧ t.colon = s.colon

/-! Writes that follow one another -/

/-- R177: the base value of position 1 survives every overlay. -/
theorem overlayColon_overlayColon (b : Byte) (f g : Bool) :
    overlayColon (overlayColon b f) g = overlayColon b g := by
  have hmask : (if f then colonMask else 0x00#8) &&& 0x7F#8 = 0#8 := by cases f <;> rfl
  rw [overlayColon, overlayColon, overlayColon, BitVec.and_or_distrib_right, hmask, BitVec.and_assoc,
    BitVec.and_self, BitVec.or_zero]

/-- R177: what SETCOLON leaves of the registers the next SETCOLON reads, and what it sends. -/
theorem performed_setColon_answer (f : Bool) (s : State) (k : Nat) :
    (performed (.setColon f) s).answer k = s.answer (4 + k) := answer_congr rfl (Nat.add_assoc _ 4 k)

theorem performed_setColon_ctrl (f : Bool) (s : State) : (performed (.setColon f) s).ctrl = s.ctrl := rfl

theorem performed_setColon_buf (f : Bool) (s : State) :
    (performed (.setColon f) s).buf = s.buf.set 1#2 (overlayColon s.buf.p1 f) := rfl

theorem performed_setColon_wtrace (f : Bool) (s : State) :
    (performed (.setColon f) s).wtrace = s.wtrace
      ++ dataWriteFrames 1#2 (overlayColon s.buf.p1 f) (s.answer 0) (s.answer 1) (s.answer 2)
      ++ oneByteFrame s.ctrl (s.answer 3) := by
  rw [List.append_assoc]
  exact congrArg (fun w => s.wtrace ++ (dataWriteFrames _ _ _ _ _ ++ w)) (List.append_nil _)

/-- R174: WRSEG writes its cell with the composed byte. -/
theorem performed_wrSeg_buf (a raw : Byte) (s : State) :
    (performed (.wrSeg a raw) s).buf = s.buf.set (position a) (compose (position a) raw s.colon) := rfl

theorem performed_wrSeg_wtrace (a raw : Byte) (s : State) :
    (performed (.wrSeg a raw) s).wtrace =
      s.wtrace ++ trafficSyms s 0 (s.segmentTraffic (position a) (compose (position a) raw s.colon)) := rfl

/-- R174: a byte the cache holds is not sent again. -/
theorem segmentTraffic_of_held {s : State} {p : Pos} {v : Byte} (h : v = s.buf.get p) :
    s.segmentTraffic p v = [.single s.ctrl] := by
  simp [State.segmentTraffic, h]

theorem trafficSyms_single (s : State) (k : Nat) (v : Byte) :
    trafficSyms s k [.single v] = oneByteFrame v (s.answer k) := rfl

end Sys2Proof.Machine

open Sys2Proof Sys2Proof.Machine

/-- Settles O37: each row of the write table by the effect of the operations outside it. -/
theorem writeSets : Obligations.WriteSets := by
  intro i s t h
  obtain rfl := eq_performed_of_exec h
  refine ⟨performed_model_fields i s, fun hi => performed_pins hi s, fun hi hd => performed_dir_clk hi hd s,
    ?_, ?_, ?_, ?_, ?_, fun hi hb => performed_brightness hi hb s, fun hi he => performed_enabled hi he s,
    fun hc hcl hi => performed_colon hc hcl hi s, performed_fstate_wtrace i s, performed_framer i s,
    performed_buf_get i s⟩
  · rintro l m hml ⟨d, rfl⟩
    exact PerLine.get_set_other s.dir d hml
  · rintro (⟨l, rfl | rfl | rfl⟩ | rfl | rfl) <;> rfl
  · rintro l m hml (rfl | rfl)
    · exact PerLine.get_set_other s.lvl true hml
    · exact PerLine.get_set_other s.lvl false hml
  · rintro ⟨l, rfl | ⟨d, rfl⟩⟩ <;> rfl
  · rintro ⟨b, rfl | rfl⟩ <;> rfl

/-- Settles O38: none of the four operations writes a display register. -/
theorem rawBytesBypassTheDisplayState : Obligations.RawBytesBypassTheDisplayState := by
  intro is s his
  refine execAll_keeps (P := SameDisplay s) (fun i hi t ht => ?_) ⟨rfl, rfl, rfl, rfl⟩
  rcases his i hi with rfl | rfl | ⟨v, rfl⟩ | ⟨v, rfl⟩ <;> exact ht

/-- Settles O39: of the operations that write a cell other than position 1, CLEAR and INIT blank it, a digit has bit 7
clear, and WRSEG writes the host's byte. -/
theorem colonBitElsewhereIsTheHosts : Obligations.ColonBitElsewhereIsTheHosts := by
  intro i s t p h hp hbit
  obtain rfl := eq_performed_of_exec h
  have hcompose : ∀ raw, compose p raw s.colon = raw := fun raw => by simp [compose, colonPos, hp]
  rcases performed_buf_get i s p with hsame | ⟨a, b, rfl | rfl, rfl⟩ | ⟨-, rfl⟩ | rfl | ⟨c, d, rfl⟩
  · simp only [hsame] at hbit
    exact .inl hbit
  · have hcell : (performed (.wrSeg a b) s).buf.get (a.extractLsb' 0 2) = b :=
      (Cells.get_set_same _ _ _).trans (hcompose b)
    simp only [hcell] at hbit
    exact .inr ⟨a, b, rfl, rfl, hbit⟩
  · have hcell : (performed (.dispDigit a b) s).buf.get (a.extractLsb' 0 2) = digitSegments s.cfg.digitLut b :=
      (Cells.get_set_same _ _ _).trans (hcompose _)
    simp only [hcell, digitSegments_getElem_seven] at hbit
    exact absurd hbit Bool.noConfusion
  · exact absurd rfl hp
  · have hcell : (performed .clear s).buf.get p = 0x00#8 := blankCells_get p
    simp [hcell] at hbit
  · have hcell : (performed (.init c d) s).buf.get p = 0x00#8 := blankCells_get p
    simp [hcell] at hbit

/-- Settles O27: an overlay changes the colon bit alone, so the three bytes share one base value. -/
theorem colonOnOffOnRewritesThrice : Obligations.ColonOnOffOnRewritesThrice := by
  rintro s _ rfl
  have hon : (s.buf.get 1#2 &&& 0x7F#8) ||| 0x80#8 = overlayColon s.buf.p1 true := rfl
  have hoff : s.buf.get 1#2 &&& 0x7F#8 = overlayColon s.buf.p1 false := (BitVec.or_zero).symm
  refine ⟨performed (.setColon true) (performed (.setColon false) (performed (.setColon true) s)),
    by rw [execAll_cons, execAll_cons, execAll_cons, execAll_nil], ?_, rfl, ?_⟩
  · rw [hon, hoff]
    simp only [performed_setColon_wtrace, performed_setColon_answer, performed_setColon_ctrl, performed_setColon_buf,
      Cells.set_one, overlayColon_overlayColon, Nat.reduceAdd]
  · simp only [hon, performed_setColon_buf, Cells.set_one, overlayColon_overlayColon]

/-- Settles O32: after the first write the cache holds the byte. -/
theorem repeatedWriteIsSuppressed : Obligations.RepeatedWriteIsSuppressed := by
  intro a a' raw s hpos
  have hpos' : position a' = position a := hpos.symm
  have hheld : compose (position a) raw s.colon = (performed (.wrSeg a raw) s).buf.get (position a) :=
    (Cells.get_set_same _ _ _).symm
  have hcolon : (performed (.wrSeg a raw) s).colon = s.colon := rfl
  have hwtrace : (performed (.wrSeg a' raw) (performed (.wrSeg a raw) s)).wtrace =
      (performed (.wrSeg a raw) s).wtrace ++ oneByteFrame s.ctrl ((performed (.wrSeg a raw) s).answer 0) := by
    rw [performed_wrSeg_wtrace, hpos', hcolon, segmentTraffic_of_held hheld, trafficSyms_single]
    rfl
  have hbuf : (performed (.wrSeg a' raw) (performed (.wrSeg a raw) s)).buf = (performed (.wrSeg a raw) s).buf := by
    rw [performed_wrSeg_buf, hpos']
    exact Cells.set_set _ _ _ _
  refine ⟨_, _, exec_eq_performed _ s, exec_eq_performed _ _, hwtrace, hbuf, ?_⟩
  have hone : ∀ b, byteCount (oneByteFrame s.ctrl b) = 1 := fun _ => rfl
  obtain ⟨hsingles, hwrites⟩ := counts_segmentTraffic s (position a) (compose (position a) raw s.colon)
  rw [hwtrace, byteCount_append, hone, performed_wrSeg_wtrace, byteCount_append, byteCount_trafficSyms, hsingles,
    hwrites]
  split
  · next hv => exact .inr ⟨by omega, by rw [performed_wrSeg_buf, hv, Cells.set_get_self]⟩
  · exact .inl (by omega)

end

section
/-! Frame-safe operations (60_exceptions.md R240, 10_state.md R47 (c), 20_memory.md R74): each sends some traffic or is
the encoder's; what the traffic looks like on the wire, what it writes to the mirror, and the law of the contract. -/

namespace Sys2Proof.Machine

/-! Traffic on the wire -/

/-- R102: an address command carries its position, below the fixed bits. -/
theorem addressByte_fixed_bits (p : Pos) : (0xC0#8 ||| p.setWidth 8) &&& 0xFC#8 = 0xC0#8 := by revert p; decide

theorem addressByte_position (p : Pos) : (0xC0#8 ||| p.setWidth 8 : Byte).extractLsb' 0 2 = p := by revert p; decide

/-- R103: a control byte is told by its upper half. -/
theorem controlByte_fixed_bits (e : Bool) (b : BitVec 3) : controlByte e b &&& 0xF0#8 = 0x80#8 := by revert e b; decide

theorem ctrl_fixed_bits (s : State) : s.ctrl &&& 0xF0#8 = 0x80#8 := controlByte_fixed_bits _ _

/-- R47 (c): traffic is whole frames of one or two bytes. -/
theorem isFrames_trafficSyms (s : State) (k : Nat) (tr : List Traffic) : isFrames (trafficSyms s k tr) = true := by
  induction tr generalizing k with
  | nil => rfl
  | cons x tr ih => cases x <;> simp [trafficSyms, oneByteFrame, dataWriteFrames, isFrames, ih]

/-- R103, R172: what the display layer sends: a control byte, or a data-write transaction. -/
def Traffic.isDisplay (x : Traffic) : Prop :=
  match x with
  | .single v => v &&& 0xF0#8 = 0x80#8
  | .dataWrite _ _ => True

theorem isDisplayTraffic_trafficSyms (s : State) (k : Nat) {tr : List Traffic} (h : ∀ x ∈ tr, x.isDisplay) :
    isDisplayTraffic (trafficSyms s k tr) = true := by
  induction tr generalizing k with
  | nil => rfl
  | cons x tr ih =>
    obtain ⟨hx, htr⟩ := List.forall_mem_cons.mp h
    cases x with
    | single v =>
      have hv : v &&& 0xF0#8 = 0x80#8 := hx
      simp [trafficSyms, oneByteFrame, isDisplayTraffic, hv, ih _ htr]
    | dataWrite p v =>
      simp [trafficSyms, dataWriteFrames, oneByteFrame, isDisplayTraffic, addressByte_fixed_bits, ih _ htr]

/-- R172: the cells some traffic writes, over what they held. -/
def writtenBy (tr : List Traffic) (b : Cells) : Cells :=
  match tr with
  | [] => b
  | .single _ :: rest => writtenBy rest b
  | .dataWrite p v :: rest => writtenBy rest (b.set p v)

theorem writtenBy_append (x y : List Traffic) (b : Cells) : writtenBy (x ++ y) b = writtenBy y (writtenBy x b) := by
  induction x generalizing b with
  | nil => rfl
  | cons a x ih => cases a <;> exact ih _

/-- R74: the mirror of some traffic is what the traffic writes, whatever was seen before it. -/
theorem mirror_trafficSyms (s : State) (k : Nat) (tr : List Traffic) (m : Mirror) :
    ((trafficSyms s k tr).foldl Mirror.see m).cells = writtenBy tr m.cells := by
  induction tr generalizing k m with
  | nil => rfl
  | cons x tr ih =>
    cases x with
    | single v => simp [trafficSyms, oneByteFrame, Mirror.see, Mirror.close, writtenBy, ih]
    | dataWrite p v =>
      simp [trafficSyms, dataWriteFrames, oneByteFrame, Mirror.see, Mirror.close, writtenBy, ih, addressByte_fixed_bits,
        addressByte_position]

/-! What a frame-safe operation sends -/

/-- The operation sends this traffic, from a state it has prepared. -/
structure Sends (i : Instr) (s u : State) (tr : List Traffic) (b : Cells) (c : Bool) : Prop where
  effect_eq : effect i s = afterSending u tr b c
  nonempty : tr ≠ []
  wtrace : u.wtrace = s.wtrace
  clkOut : s.dir.clk = .output → u.dir.clk = .output
  buf : b = writtenBy tr s.buf
  display : Instr.isPublic i → ∀ x ∈ tr, x.isDisplay

/-- R174: the traffic of WRSEG writes its cell. -/
theorem writtenBy_segmentTraffic (s : State) (p : Pos) (v : Byte) :
    writtenBy (s.segmentTraffic p v) s.buf = s.buf.set p v := by
  by_cases h : v = s.buf.get p <;> simp [State.segmentTraffic, writtenBy, h]

theorem isDisplay_segmentTraffic (s : State) (p : Pos) (v : Byte) : ∀ x ∈ s.segmentTraffic p v, x.isDisplay := by
  intro x hx
  by_cases h : v = s.buf.get p <;> simp [State.segmentTraffic, h] at hx
  · exact hx ▸ ctrl_fixed_bits s
  · rcases hx with rfl | rfl
    · trivial
    · exact ctrl_fixed_bits s

theorem writtenBy_blankTraffic (p : Pos) (ctrl : Byte) (b : Cells) :
    writtenBy (blankTraffic p (b.get p) ctrl) b = b.set p 0x00#8 := by
  by_cases h : b.get p = 0x00#8
  · have hset : b.set p 0x00#8 = b := by rw [← h, Cells.set_get_self]
    simp [blankTraffic, writtenBy, h, hset]
  · simp [blankTraffic, writtenBy, h]

/-- R182: the traffic of CLEAR blanks the cells, position 1 by its base value first. -/
theorem writtenBy_clearTraffic (b : Cells) (ctrl : Byte) : writtenBy (clearTraffic b ctrl) b = blankCells := by
  obtain ⟨p0, p1, p2, p3⟩ := b
  have h0 := writtenBy_blankTraffic 0#2 ctrl ⟨p0, p1 &&& 0x7F#8, p2, p3⟩
  have h1 := writtenBy_blankTraffic 1#2 ctrl ⟨0x00#8, p1 &&& 0x7F#8, p2, p3⟩
  have h2 := writtenBy_blankTraffic 2#2 ctrl ⟨0x00#8, 0x00#8, p2, p3⟩
  have h3 := writtenBy_blankTraffic 3#2 ctrl ⟨0x00#8, 0x00#8, 0x00#8, p3⟩
  simp only [Cells.get_zero, Cells.get_one, Cells.get_two, Cells.get_three, Cells.set_zero, Cells.set_one,
    Cells.set_two, Cells.set_three] at h0 h1 h2 h3
  simp only [clearTraffic, writtenBy_append, writtenBy, Cells.set_one, h0, h1, h2, h3, blankCells]

theorem isDisplay_blankTraffic (p : Pos) (old : Byte) {ctrl : Byte} (h : ctrl &&& 0xF0#8 = 0x80#8) :
    ∀ x ∈ blankTraffic p old ctrl, x.isDisplay := by
  intro x hx
  by_cases hold : old = 0x00#8 <;> simp [blankTraffic, hold] at hx
  · exact hx ▸ h
  · rcases hx with rfl | rfl
    · trivial
    · exact h

theorem isDisplay_clearTraffic (b : Cells) {ctrl : Byte} (h : ctrl &&& 0xF0#8 = 0x80#8) :
    ∀ x ∈ clearTraffic b ctrl, x.isDisplay := by
  have hblank := fun p old => isDisplay_blankTraffic p old h
  simp only [clearTraffic, List.forall_mem_append, List.forall_mem_cons, List.not_mem_nil, false_implies, implies_true,
    and_true]
  exact ⟨⟨⟨⟨⟨trivial, h⟩, hblank _ _⟩, hblank _ _⟩, hblank _ _⟩, hblank _ _⟩

theorem sends_wrSeg {i : Instr} {s : State} {pos raw : Byte} (h : effect i s = s.afterWrSeg pos raw) :
    ∃ u tr b c, Sends i s u tr b c :=
  ⟨s, _, _, _, h, by simp [State.segmentTraffic], rfl, id, (writtenBy_segmentTraffic s _ _).symm,
    fun _ => isDisplay_segmentTraffic s _ _⟩

/-- R240: a frame-safe operation is the encoder's, which delivers its result and does nothing else, or it sends. -/
theorem frameSafe_cases {i : Instr} (h : Instr.isFrameSafe i) (s : State) :
    (∃ r, effect i s = delivered r s) ∨ ∃ u tr b c, Sends i s u tr b c := by
  have hsingle : ∀ {v : Byte}, v &&& 0xF0#8 = 0x80#8 → ∀ x ∈ [Traffic.single v], x.isDisplay :=
    fun hv => List.forall_mem_singleton.mpr hv
  cases i
  case drvh | drvl | setDir | read | start | wrByte | stop | wireDataCmd | wireAddrCmd | wireCtrlCmd | wireSegByte =>
    exact absurd h (by simp [Instr.level])
  case dig2Seg | chr2Seg => exact .inl ⟨_, rfl⟩
  case command v =>
    exact .inr ⟨s, _, _, _, rfl, List.cons_ne_nil _ _, rfl, id, rfl, fun hp => absurd hp (by simp [Instr.level])⟩
  case wrSeg | dispDigit => exact .inr (sends_wrSeg rfl)
  case setColon f =>
    exact .inr ⟨s, _, _, _, rfl, List.cons_ne_nil _ _, rfl, id, rfl,
      fun _ => List.forall_mem_cons.mpr ⟨trivial, hsingle (ctrl_fixed_bits s)⟩⟩
  case setBrt | setEn =>
    exact .inr ⟨_, _, _, _, rfl, List.cons_ne_nil _ _, rfl, id, rfl, fun _ => hsingle (controlByte_fixed_bits _ _)⟩
  case clear =>
    exact .inr ⟨s, _, _, _, rfl, clearTraffic_ne_nil _ _, rfl, id, (writtenBy_clearTraffic _ _).symm,
      fun _ => isDisplay_clearTraffic _ (ctrl_fixed_bits s)⟩
  case init c d =>
    exact .inr ⟨s.initialised c d, _, _, _, rfl, clearTraffic_ne_nil _ _, rfl, fun _ => rfl,
      (writtenBy_clearTraffic _ _).symm, fun _ => isDisplay_clearTraffic _ rfl⟩

theorem Sends.performed_wtrace {i : Instr} {s u : State} {tr : List Traffic} {b : Cells} {c : Bool}
    (h : Sends i s u tr b c) : (performed i s).wtrace = s.wtrace ++ trafficSyms u 0 tr := by
  rw [performed, h.effect_eq, ← h.wtrace]
  rfl

/-- R149: sending ends with both lines high and no frame open. -/
theorem Sends.performed_isParked {i : Instr} {s u : State} {tr : List Traffic} {b : Cells} {c : Bool}
    (h : Sends i s u tr b c) (hclk : s.dir.clk = .output) : (performed i s).isParked := by
  have hdir : (performed i s).dir = ⟨u.dir.clk, .output⟩ := by rw [performed, h.effect_eq]; rfl
  have hlines : (performed i s).fstate = .idle ∧ (performed i s).lvl = ⟨true, true⟩ := by
    rw [performed, h.effect_eq]; exact ⟨rfl, rfl⟩
  exact ⟨hlines.1, hlines.2, by rw [hdir, h.clkOut hclk]⟩

/-- R47 (c): a frame-safe operation leaves a parked engine parked. -/
theorem performed_isParked {i : Instr} (h : Instr.isFrameSafe i) {s : State} (hs : s.isParked) :
    (performed i s).isParked := by
  rcases frameSafe_cases h s with ⟨r, heffect⟩ | ⟨u, tr, b, c, hsends⟩
  · rw [performed, heffect]
    exact hs
  · exact hsends.performed_isParked (congrArg PerLine.clk hs.2.2)

/-! The mirror (R74) -/

/-- From `s` to `t` every mirror that agrees with the buffer goes on agreeing with it. -/
def Mirrored (s t : State) : Prop :=
  ∃ w, t.wtrace = s.wtrace ++ w ∧ ∀ m : Mirror, m.cells = s.buf → (w.foldl Mirror.see m).cells = t.buf

theorem Mirrored.refl (s : State) : Mirrored s s := ⟨[], (List.append_nil _).symm, fun _ hm => hm⟩

theorem Mirrored.trans {s t u : State} (h : Mirrored s t) (g : Mirrored t u) : Mirrored s u := by
  obtain ⟨v, hv, hst⟩ := h
  obtain ⟨w, hw, htu⟩ := g
  refine ⟨v ++ w, by rw [hw, hv, List.append_assoc], fun m hm => ?_⟩
  rw [List.foldl_append]
  exact htu _ (hst m hm)

theorem mirrored_performed {i : Instr} (h : Instr.isFrameSafe i) (s : State) : Mirrored s (performed i s) := by
  rcases frameSafe_cases h s with ⟨r, heffect⟩ | ⟨u, tr, b, c, hsends⟩
  · rw [performed, heffect]
    exact Mirrored.refl s
  · have hbuf : (performed i s).buf = writtenBy tr s.buf := by
      rw [performed, hsends.effect_eq, ← hsends.buf]
      rfl
    refine ⟨_, hsends.performed_wtrace, fun m hm => ?_⟩
    rw [mirror_trafficSyms, hm, hbuf]

/-! The contract (R240) -/

/-- R240: a wire byte is no host operation. -/
theorem not_isFrameSafe_of_encode_wire {i : Instr} {slot : Slot} {v : Byte} (h : encode i = .wire slot v) :
    ¬ Instr.isFrameSafe i := by
  cases i
  case wireDataCmd | wireAddrCmd | wireCtrlCmd | wireSegByte => simp [Instr.level]
  all_goals simp [encode] at h

/-- R236, R240: in an initialised engine with no frame open an operation that keeps the contract has no reason to
record. -/
theorem no_reason_of_keepsContract {i : Instr} (h : Instr.keepsContract i) {s : State} (hinited : s.inited = true)
    (hidle : s.fstate = .idle) (r : Reason) : ¬ recordsReason i s r := by
  obtain ⟨hsafe, hpins⟩ := h
  cases r with
  | startInOpenFrame => exact fun hr => hr.1 hidle
  | byteOutsideFrame =>
    rintro ⟨-, ⟨v, rfl⟩ | ⟨slot, v, hcode⟩⟩
    · simp [Instr.isFrameSafe, Instr.level] at hsafe
    · exact not_isFrameSafe_of_encode_wire hcode hsafe
  | stopOutsideFrame =>
    rintro ⟨-, rfl⟩
    simp [Instr.isFrameSafe, Instr.level] at hsafe
  | notInitialised => exact fun hr => Bool.noConfusion (hinited.symm.trans hr.1)
  | samePin =>
    rintro ⟨c, rfl⟩
    exact hpins c c rfl rfl
  | rawLineOp => rintro (⟨l, rfl⟩ | ⟨l, rfl⟩ | ⟨l, d, rfl⟩) <;> simp [Instr.isFrameSafe, Instr.level] at hsafe

theorem performed_inited {i : Instr} {s : State} (h : s.inited = true) : (performed i s).inited = true := by
  cases i
  case init => rfl
  all_goals exact h

/-- What a contract-keeping host finds, the engine free and its lines high included (R240, R270, R47 (c)). -/
def Served (s : State) : Prop := s.isServing ∧ s.isSafeEnd ∧ s.isParked

/-- R183, R240: INIT with two pins puts the engine in service. -/
theorem served_init {c d : Byte} (h : c ≠ d) {s : State} (hviol : s.viol = false) :
    Served (performed (.init c d) s) := by
  have hv : (performed (.init c d) s).viol = false := by
    have hchecked : (checkPins c d s).viol = false := by simp [checkPins, h, hviol]
    exact hchecked
  exact ⟨⟨rfl, rfl, hv⟩, ⟨⟨rfl, rfl⟩, hv⟩, rfl, rfl, rfl⟩

/-- R240: an operation that keeps the contract keeps the engine in service. -/
theorem served_performed {i : Instr} (h : Instr.keepsContract i) {s : State} (hs : Served s) :
    Served (performed i s) := by
  obtain ⟨⟨hinited, hidle, hviol⟩, -, hparked⟩ := hs
  have hv : (performed i s).viol = false := by
    have hchecked := (records_checked i s).viol
    simp only [no_reason_of_keepsContract h hinited hidle, hviol, exists_false, or_false, Bool.false_eq_true,
      iff_false, Bool.not_eq_true] at hchecked
    exact hchecked
  have hparked' := performed_isParked h.1 hparked
  exact ⟨⟨performed_inited hinited, hparked'.1, hv⟩, ⟨⟨(effect_free i s).1, hparked'.1⟩, hv⟩, hparked'⟩

end Sys2Proof.Machine

open Sys2Proof Sys2Proof.Machine

/-- Settles O44: what a frame-safe operation appends is its traffic, or nothing. -/
theorem frameSafeOperationsSendWholeFrames : Obligations.FrameSafeOperationsSendWholeFrames := by
  intro i s hsafe hparked
  rcases frameSafe_cases hsafe s with ⟨r, heffect⟩ | ⟨u, tr, b, c, hsends⟩
  · have hw : (performed i s).wtrace = s.wtrace ++ [] := by
      rw [performed, heffect, List.append_nil]
      rfl
    exact ⟨_, [], exec_eq_performed i s, performed_isParked hsafe hparked, hw, rfl, fun _ => rfl⟩
  · exact ⟨_, _, exec_eq_performed i s, performed_isParked hsafe hparked, hsends.performed_wtrace,
      isFrames_trafficSyms u 0 tr, fun hpublic => isDisplayTraffic_trafficSyms u 0 (hsends.display hpublic)⟩

/-- Settles O45: INIT puts the engine in service, and every operation of the contract keeps it there. -/
theorem contractKeepingHostNeverViolates : Obligations.ContractKeepingHostNeverViolates := by
  intro c d is s hpins hviol his
  rw [execAll_cons]
  exact execAll_keeps (fun i hi _ => served_performed (his i hi)) (served_init hpins hviol)

/-- Settles O50: a mirror that starts from the buffer agrees with it after every operation. -/
theorem cacheMirrorsWhatWasSent : Obligations.CacheMirrorsWhatWasSent := by
  intro is s his
  obtain ⟨t, hrun, w, hw, hmirror⟩ := execAll_keeps (P := Mirrored s)
    (fun i hi _ hs => hs.trans (mirrored_performed (his i hi) _)) (Mirrored.refl s)
  exact ⟨t, w, hrun, hw, (hmirror _ rfl).symm⟩

end

section
/-! What the chip's answers cannot reach (00_scope.md R18): with the oracle and everything its answers are stored in
erased, what an operation does is a function of what is left. -/

namespace Sys2Proof.Machine

/-- R18: the oracle, and the registers that store its answers, erased. -/
def State.withoutAnswers (s : State) : State :=
  { s with oracle := .acking, ackQ := false, sample := false, res := 0x00#8 }

/-- R18: the answers in the traces erased too. -/
def State.erased (s : State) : State :=
  { s.withoutAnswers with ltrace := s.ltrace.map Event.hideAnswer, wtrace := s.wtrace.map Sym.hideAck }

/-- The answers of one state put into another. -/
def State.withAnswersOf (t u : State) : State :=
  { u with oracle := t.oracle, ackQ := t.ackQ, sample := t.sample, res := t.res }

/-- R18: states differ at most in the answers exactly when nothing else is left to differ in. -/
theorem sameButAnswers_iff {s t : State} : s.sameButAnswers t ↔ s.erased = t.erased := by
  constructor
  · exact fun h => congrArg State.withoutAnswers h
  · exact fun h => congrArg (State.withAnswersOf t) h

theorem hideAnswer_hideAnswer (e : Event) : e.hideAnswer.hideAnswer = e.hideAnswer := by cases e <;> rfl

theorem hideAck_hideAck (x : Sym) : x.hideAck.hideAck = x.hideAck := by cases x <;> rfl

theorem map_hideAnswer_map (es : List Event) :
    (es.map Event.hideAnswer).map Event.hideAnswer = es.map Event.hideAnswer := by
  rw [List.map_map]
  exact List.map_congr_left fun e _ => hideAnswer_hideAnswer e

theorem map_hideAck_map (w : List Sym) : (w.map Sym.hideAck).map Sym.hideAck = w.map Sym.hideAck := by
  rw [List.map_map]
  exact List.map_congr_left fun x _ => hideAck_hideAck x

/-! The waveforms and the frames without the answers -/

theorem hide_byteWave (v : Byte) (a b : Bit) :
    (byteWave v a).map Event.hideAnswer = (byteWave v b).map Event.hideAnswer := by
  simp only [byteWave, List.map_append]
  rfl

theorem hide_trafficEvents (s : State) (k j : Nat) (tr : List Traffic) :
    (trafficEvents s k j tr).map Event.hideAnswer = (trafficEvents s.erased k j tr).map Event.hideAnswer := by
  have hbyte : ∀ v a, (byteWave v a).map Event.hideAnswer = (byteWave v false).map Event.hideAnswer :=
    fun v a => hide_byteWave v a false
  have hfirst : ∀ n, s.erased.dioFirstAt n = s.dioFirstAt n := fun n => rfl
  induction tr generalizing k j with
  | nil => rfl
  | cons x tr ih =>
    cases x <;>
      simp only [trafficEvents, dataWriteWave, commandWave, List.map_append, ih, hbyte, hfirst]

theorem hide_trafficSyms (s : State) (k : Nat) (tr : List Traffic) :
    (trafficSyms s k tr).map Sym.hideAck = (trafficSyms s.erased k tr).map Sym.hideAck := by
  induction tr generalizing k with
  | nil => rfl
  | cons x tr ih =>
    cases x <;> simp [trafficSyms, dataWriteFrames, oneByteFrame, Sym.hideAck, ih]

/-! The operations without the answers -/

/-- What is appended to the line trace, erased. -/
theorem hide_ltrace_append (s : State) {es fs : List Event}
    (h : es.map Event.hideAnswer = fs.map Event.hideAnswer) :
    (s.ltrace ++ es).map Event.hideAnswer = (s.erased.ltrace ++ fs).map Event.hideAnswer := by
  rw [List.map_append, List.map_append, h]
  exact congrArg (· ++ _) (map_hideAnswer_map s.ltrace).symm

/-- What is appended to the wire trace, erased. -/
theorem hide_wtrace_append (s : State) {v w : List Sym} (h : v.map Sym.hideAck = w.map Sym.hideAck) :
    (s.wtrace ++ v).map Sym.hideAck = (s.erased.wtrace ++ w).map Sym.hideAck := by
  rw [List.map_append, List.map_append, h]
  exact congrArg (· ++ _) (map_hideAck_map s.wtrace).symm

theorem hide_wtrace (s : State) : s.wtrace.map Sym.hideAck = s.erased.wtrace.map Sym.hideAck :=
  (map_hideAck_map s.wtrace).symm

/-- Equal but for the answers: the registers and the traces one by one. -/
theorem erased_eq {t u : State} (hl : t.ltrace.map Event.hideAnswer = u.ltrace.map Event.hideAnswer)
    (hw : t.wtrace.map Sym.hideAck = u.wtrace.map Sym.hideAck)
    (h : { t.withoutAnswers with ltrace := [], wtrace := [] } = { u.withoutAnswers with ltrace := [], wtrace := [] }) :
    t.erased = u.erased := by
  have hparts : ∀ x : State, x.erased =
      { { x.withoutAnswers with ltrace := [], wtrace := [] } with
        ltrace := x.ltrace.map Event.hideAnswer, wtrace := x.wtrace.map Sym.hideAck } := fun _ => rfl
  rw [hparts t, hparts u, hl, hw, h]

/-- Sending, erased. -/
theorem erased_afterSending (s : State) (tr : List Traffic) (b : Cells) (c : Bool) :
    (afterSending s tr b c).erased = (afterSending s.erased tr b c).erased :=
  erased_eq (hide_ltrace_append s (hide_trafficEvents s 0 0 tr)) (hide_wtrace_append s (hide_trafficSyms s 0 tr)) rfl

/-- A byte, erased. -/
theorem erased_afterByte (s : State) (v : Byte) : (s.afterByte v).erased = (s.erased.afterByte v).erased :=
  erased_eq (hide_ltrace_append s (hide_byteWave v _ _)) (hide_wtrace_append s rfl) rfl

theorem erased_initialised (c d : Byte) (s : State) :
    (s.initialised c d).erased = (s.erased.initialised c d).erased :=
  erased_eq (hide_ltrace_append s rfl) (hide_wtrace s) rfl

/-- R18: the effect of an operation, erased, is a function of the erased state. -/
theorem erased_effect (i : Instr) (s : State) : (effect i s).erased = (effect i s.erased).erased := by
  cases i
  case drvh | drvl | setDir | read => exact erased_eq (hide_ltrace_append s rfl) (hide_wtrace s) rfl
  case start | stop => exact erased_eq (hide_ltrace_append s rfl) (hide_wtrace_append s rfl) rfl
  case dig2Seg | chr2Seg => exact erased_eq (map_hideAnswer_map s.ltrace).symm (hide_wtrace s) rfl
  case wrByte | wireDataCmd | wireAddrCmd | wireCtrlCmd | wireSegByte => exact erased_afterByte s _
  case setBrt v => exact erased_afterSending { s with brightness := maskBrightness v } _ _ _
  case setEn f => exact erased_afterSending { s with enabled := f } _ _ _
  case init c d =>
    refine (erased_afterSending (s.initialised c d) _ _ _).trans ?_
    rw [erased_initialised]
    exact (erased_afterSending (s.erased.initialised c d) _ _ _).symm
  all_goals exact erased_afterSending s _ _ _

/-- No check reads an answer. -/
theorem violateIf_erased (c : Bool) (r : Reason) (s : State) : violateIf c r s.erased = (violateIf c r s).erased := by
  cases c <;> rfl

theorem checked_erased (i : Instr) (s : State) : checked i s.erased = (checked i s).erased := by
  have hinit : checkInit s.erased = (checkInit s).erased := violateIf_erased _ _ s
  cases i
  case drvh | drvl | setDir => exact congrArg (violation _) hinit
  case read => exact hinit
  case init => exact violateIf_erased _ _ s
  case dig2Seg | chr2Seg => rfl
  case start | command | wrSeg | setColon | setBrt | setEn | clear | dispDigit =>
    exact (congrArg checkNoFrame hinit).trans (violateIf_erased _ _ _)
  all_goals exact (congrArg (checkFrame _) hinit).trans (violateIf_erased _ _ _)

theorem erased_performed (i : Instr) (s : State) : (performed i s).erased = (performed i s.erased).erased := by
  have heffect := congrArg (State.withGhostOf · (checked i s)) (erased_effect i s)
  have hchecked : (effect i s.erased).withGhostOf (checked i s)
      = (effect i s.erased).withGhostOf (checked i s.erased) := by
    rw [checked_erased]
    rfl
  exact heffect.trans (congrArg State.erased hchecked)

/-- R18: operations keep states that differ in the answers only so. -/
theorem performed_erased_congr (i : Instr) {s t : State} (h : s.erased = t.erased) :
    (performed i s).erased = (performed i t).erased := by
  rw [erased_performed, h, ← erased_performed]

/-- R93: a result that is no answer is a function of the erased state. -/
theorem performed_res_erased {i : Instr} (hread : ∀ l, i ≠ .read l) (hbyte : ∀ v, i ≠ .wrByte v)
    (hwire : ∀ slot v, encode i ≠ .wire slot v) (s : State) : (performed i s).res = (performed i s.erased).res := by
  cases i
  case read l => exact absurd rfl (hread l)
  case wrByte v => exact absurd rfl (hbyte v)
  case wireDataCmd | wireAddrCmd | wireCtrlCmd | wireSegByte => exact absurd rfl (hwire _ _)
  all_goals rfl

end Sys2Proof.Machine

open Sys2Proof Sys2Proof.Machine

/-- Settles O46: both runs are runs of one erased state. -/
theorem oracleNeverSteersTheEngine : Obligations.OracleNeverSteersTheEngine := by
  refine ⟨fun is s t h => ?_, fun i s t h hread hbyte hwire => ?_⟩
  · simp only [sameButAnswers_iff] at h ⊢
    induction is generalizing s t with
    | nil => exact ⟨s, t, rfl, rfl, h⟩
    | cons i is ih =>
      simp only [execAll_cons]
      exact ih _ _ (performed_erased_congr i h)
  · refine ⟨_, _, exec_eq_performed i s, exec_eq_performed i t, ?_⟩
    rw [performed_res_erased hread hbyte hwire s, performed_res_erased hread hbyte hwire t, sameButAnswers_iff.mp h]

end

section
/-! The law of the wire decoder (20_memory.md R76): what a receiver sees of traffic, of one operation, and of a run. -/

namespace Sys2Proof.Machine

/-! Traffic at the receiver -/

/-- R150: one byte in a frame of its own. -/
theorem observe_commandWave (lvl : PerLine Bit) (d : Bool) (v : Byte) (a : Bit) :
    observeAll (driven lvl 0 0x00#8) (functional (commandWave d v a)) =
      (driven ⟨true, true⟩ 0 0x00#8,
        (if !lvl.dio && (lvl.clk || !d) then [.stop] else []) ++ withoutSamples (oneByteFrame v a)) := by
  simp only [commandWave, functional_append, observeAll_append, observe_startWave, observe_byteWave, observe_stopWave,
    List.append_assoc]
  rfl

/-- R172: a data-write transaction. -/
theorem observe_dataWriteWave (lvl : PerLine Bit) (d1 d2 : Bool) (p : Pos) (v : Byte) (a1 a2 a3 : Bit) :
    observeAll (driven lvl 0 0x00#8) (functional (dataWriteWave d1 d2 p v a1 a2 a3)) =
      (driven ⟨true, true⟩ 0 0x00#8,
        (if !lvl.dio && (lvl.clk || !d1) then [.stop] else []) ++ withoutSamples (dataWriteFrames p v a1 a2 a3)) := by
  simp only [dataWriteWave, functional_append, observeAll_append, observe_commandWave, observe_startWave,
    observe_byteWave, observe_stopWave, List.append_assoc]
  rfl

theorem withoutSamples_append (v w : List Sym) : withoutSamples (v ++ w) = withoutSamples v ++ withoutSamples w :=
  List.map_append

/-- Traffic from lines both high: no START of it is marked. -/
theorem observe_trafficEvents_high (s : State) (k j : Nat) (tr : List Traffic) :
    observeAll (driven ⟨true, true⟩ 0 0x00#8) (functional (trafficEvents s k j tr)) =
      (driven ⟨true, true⟩ 0 0x00#8, withoutSamples (trafficSyms s k tr)) := by
  induction tr generalizing k j with
  | nil => rfl
  | cons x tr ih =>
    cases x <;>
      simp [trafficEvents, trafficSyms, functional_append, observeAll_append, observe_commandWave,
        observe_dataWriteWave, withoutSamples_append, ih]

/-- R76: of some traffic only the first START can be marked. -/
theorem observe_trafficEvents (s : State) (lvl : PerLine Bit) {tr : List Traffic} (h : tr ≠ []) :
    observeAll (driven lvl 0 0x00#8) (functional (trafficEvents s 0 0 tr)) =
      (driven ⟨true, true⟩ 0 0x00#8,
        (if !lvl.dio && (lvl.clk || !dioFirst s) then [.stop] else []) ++ withoutSamples (trafficSyms s 0 tr)) := by
  obtain ⟨x, tr, rfl⟩ := List.exists_cons_of_ne_nil h
  have hfirst : s.dioFirstAt 0 = dioFirst s := rfl
  cases x <;>
    simp [trafficEvents, trafficSyms, functional_append, observeAll_append, observe_commandWave, observe_dataWriteWave,
      observe_trafficEvents_high, withoutSamples_append, hfirst]

/-! One operation at the receiver -/

/-- R76: an operation appends these line events and symbols; a receiver sees what the law says and stands where the
lines stand; both lines are outputs still. -/
structure SeenAs (i : Instr) (s t : State) (es : List Event) (w : List Sym) : Prop where
  ltrace : t.ltrace = s.ltrace ++ es
  wtrace : t.wtrace = s.wtrace ++ w
  dir : t.dir = ⟨.output, .output⟩
  observed : observeAll (driven s.lvl 0 0x00#8) (functional es) = (driven t.lvl 0 0x00#8, expectedMarks i s w)

theorem receiverOf_driven {s : State} (h : s.dir = ⟨.output, .output⟩) : receiverOf s = driven s.lvl 0 0x00#8 := by
  rw [receiverOf, driven, h]

/-- What the law expects of an operation that does not begin with a START. -/
theorem expectedMarks_of_not_begins {i : Instr} (h : Instr.beginsWithStart i = false) (s : State) (w : List Sym) :
    expectedMarks i s w = withoutSamples w := by
  simp [expectedMarks, h]

/-- What the law expects of an operation that begins with a START. -/
theorem expectedMarks_of_begins {i : Instr} (h : Instr.beginsWithStart i = true) (s : State) (w : List Sym) :
    expectedMarks i s w =
      (if !s.lvl.dio && (s.lvl.clk || !dioFirst s) then [.stop] else []) ++ withoutSamples w := by
  simp [expectedMarks, h, State.startIsMarked]

/-- R76: an operation that sends, from a state it has made events to prepare that a receiver sees nothing of. -/
theorem seenAs_of_sending {i : Instr} {s u : State} {events : List Event} {tr : List Traffic} {b : Cells} {c : Bool}
    (heffect : effect i s = afterSending u tr b c) (htr : tr ≠ []) (hbegins : Instr.beginsWithStart i = true)
    (hltrace : u.ltrace = s.ltrace ++ events) (hwtrace : u.wtrace = s.wtrace) (hclk : u.dir.clk = .output)
    (hfirst : dioFirst u = dioFirst s)
    (hunseen : observeAll (driven s.lvl 0 0x00#8) (functional events) = (driven s.lvl 0 0x00#8, [])) :
    SeenAs i s (performed i s) (events ++ trafficEvents u 0 0 tr) (trafficSyms u 0 tr) where
  ltrace := by rw [performed, heffect, ← List.append_assoc, ← hltrace]; rfl
  wtrace := by rw [performed, heffect, ← hwtrace]; rfl
  dir := by rw [performed, heffect]; exact congrArg (PerLine.mk · Dir.output) hclk
  observed := by
    have hlvl : (performed i s).lvl = ⟨true, true⟩ := by rw [performed, heffect]; rfl
    rw [functional_append, observeAll_append, hunseen, observe_trafficEvents u s.lvl htr, hlvl, hfirst,
      expectedMarks_of_begins hbegins, List.nil_append]

/-- R76: a byte sent as an operation. -/
theorem seenAs_of_byte {i : Instr} {s : State} {v : Byte} (heffect : effect i s = s.afterByte v)
    (hbegins : Instr.beginsWithStart i = false) (hdir : s.dir = ⟨.output, .output⟩) :
    SeenAs i s (performed i s) (byteWave v (s.answer 0)) [.byte v (s.answer 0)] where
  ltrace := by rw [performed, heffect]; rfl
  wtrace := by rw [performed, heffect]; rfl
  dir := by
    rw [performed, heffect]
    exact congrArg (fun d => PerLine.mk d.clk Dir.output) hdir
  observed := by
    have hlvl : (performed i s).lvl = ⟨false, v[7]⟩ := by rw [performed, heffect]; rfl
    rw [observe_byteWave, hlvl, expectedMarks_of_not_begins hbegins]
    rfl

/-- R76: an operation that is neither heard nor seen. -/
theorem seenAs_nothing {i : Instr} {s : State} {es : List Event} (hltrace : (performed i s).ltrace = s.ltrace ++ es)
    (hwtrace : (performed i s).wtrace = s.wtrace) (hlvl : (performed i s).lvl = s.lvl)
    (hdir : (performed i s).dir = ⟨.output, .output⟩) (hbegins : Instr.beginsWithStart i = false)
    (hunseen : ∀ r, observeAll r (functional es) = (r, [])) : SeenAs i s (performed i s) es [] where
  ltrace := hltrace
  wtrace := hwtrace.trans (List.append_nil _).symm
  dir := hdir
  observed := by
    rw [hunseen, hlvl, expectedMarks_of_not_begins hbegins]
    rfl

/-- R76: the law for one operation. -/
theorem seenAs_performed {i : Instr} (h : Instr.leavesLinesToEngine i = true) {s : State}
    (hdir : s.dir = ⟨.output, .output⟩) : ∃ es w, SeenAs i s (performed i s) es w := by
  have hclk : s.dir.clk = .output := congrArg PerLine.clk hdir
  have hnone : s.ltrace = s.ltrace ++ [] := (List.append_nil _).symm
  cases i
  case drvh | drvl | setDir => exact absurd h Bool.noConfusion
  case read l => exact ⟨[.rd l (s.answer 0), .dly], [], seenAs_nothing rfl rfl rfl hdir rfl fun _ => rfl⟩
  case dig2Seg | chr2Seg => exact ⟨[], [], seenAs_nothing hnone rfl rfl hdir rfl fun _ => rfl⟩
  case start =>
    refine ⟨startWave (dioFirst s), [.start], rfl, rfl, hdir, ?_⟩
    rw [observe_startWave, expectedMarks_of_begins rfl]
    rfl
  case stop =>
    refine ⟨stopWave, [.stop], rfl, rfl, hdir, ?_⟩
    rw [observe_stopWave, expectedMarks_of_not_begins rfl]
    rfl
  case wrByte | wireDataCmd | wireAddrCmd | wireCtrlCmd | wireSegByte => exact ⟨_, _, seenAs_of_byte rfl rfl hdir⟩
  case clear => exact ⟨_, _, seenAs_of_sending rfl (clearTraffic_ne_nil _ _) rfl hnone rfl hclk rfl rfl⟩
  case wrSeg | dispDigit =>
    exact ⟨_, _, seenAs_of_sending rfl (by simp [State.segmentTraffic]) rfl hnone rfl hclk rfl rfl⟩
  case init c d =>
    exact ⟨_, _, seenAs_of_sending rfl (clearTraffic_ne_nil _ _) rfl rfl rfl rfl rfl rfl⟩
  all_goals exact ⟨_, _, seenAs_of_sending rfl (List.cons_ne_nil _ _) rfl hnone rfl hclk rfl rfl⟩

/-! A run at the receiver -/

/-- R76: the law for a run, operation by operation. -/
theorem observe_execAll {is : List Instr} (h : ∀ i ∈ is, Instr.leavesLinesToEngine i = true) {s : State}
    (hdir : s.dir = ⟨.output, .output⟩) :
    ∃ t es, execAll is s = .next t ∧ t.ltrace = s.ltrace ++ es
      ∧ (observeAll (driven s.lvl 0 0x00#8) (functional es)).2 = expectedOfRun is s := by
  induction is generalizing s with
  | nil => exact ⟨s, [], rfl, (List.append_nil _).symm, rfl⟩
  | cons i is ih =>
    obtain ⟨hi, hrest⟩ := List.forall_mem_cons.mp h
    obtain ⟨es, w, hltrace, hwtrace, hdir', hobserved⟩ := seenAs_performed hi hdir
    obtain ⟨t, fs, hrun, hltrace', hlater⟩ := ih hrest hdir'
    refine ⟨t, es ++ fs, by rw [execAll_cons, hrun], by rw [hltrace', hltrace, List.append_assoc], ?_⟩
    rw [functional_append, observeAll_append, hobserved, hlater, expectedOfRun, exec_eq_performed]
    simp [hwtrace]

end Sys2Proof.Machine

open Sys2Proof Sys2Proof.Machine

/-- Settles O51: with both lines outputs the receiver starts where the lines stand, and sees the operations in turn. -/
theorem decodedWireEqualsWireTrace : Obligations.DecodedWireEqualsWireTrace := by
  intro is s hdir his
  obtain ⟨t, es, hrun, hltrace, hobserved⟩ := observe_execAll his hdir
  refine ⟨t, hrun, ?_⟩
  rw [wireDecode, receiverOf_driven hdir, hltrace, List.drop_left, hobserved]

end

section
/-! Scroll-text (43_encoder.md R209 to R211): the frames as a window on the stream of segment bytes, and the run of the
host's expansion. -/

namespace Sys2Proof.Machine

/-! The frames (R209) -/

theorem length_scrollFrames (cfg : Config) (text : List Byte) : (scrollFrames cfg text).length = text.length + 4 := by
  simp [scrollFrames]

/-- R209: the frames there are, by their numbers. -/
theorem getElem?_scrollFrames (cfg : Config) (text : List Byte) {k : Nat} (h : k < text.length + 4) :
    (scrollFrames cfg text)[k]? = some (frameAt (text.map (charSegments cfg)) k) := by
  simp [scrollFrames, h]

theorem eq_frameAt_of_getElem? {cfg : Config} {text : List Byte} {k : Nat} {f : Cells}
    (h : (scrollFrames cfg text)[k]? = some f) : f = frameAt (text.map (charSegments cfg)) k := by
  have hk : k < text.length + 4 := by
    rw [← length_scrollFrames cfg text]
    exact (List.getElem?_eq_some_iff.mp h).1
  exact Option.some.inj (h.symm.trans (getElem?_scrollFrames cfg text hk))

/-- R209: a cell holds what its left neighbour holds one frame later. -/
theorem frameCell_succ (segs : List Byte) (k j : Nat) : frameCell segs (k + 1) j = frameCell segs k (j + 1) := by
  rw [frameCell, frameCell, Nat.add_right_comm, ← Nat.add_assoc]

/-- R209: the right-most cell holds the byte of the frame's number. -/
theorem frameCell_right (segs : List Byte) (k : Nat) : frameCell segs k 3 = (segs[k]?).getD 0x00#8 := by
  simp [frameCell]

/-- R209: a cell before the first byte is blank. -/
theorem frameCell_before (segs : List Byte) {k j : Nat} (h : k + j < 3) : frameCell segs k j = 0x00#8 := by
  rw [frameCell, if_neg (by omega)]

/-- R209: a cell past the last byte is blank. -/
theorem frameCell_past (segs : List Byte) {k j : Nat} (h : segs.length + 3 ≤ k + j) : frameCell segs k j = 0x00#8 := by
  rw [frameCell, if_pos (by omega), List.getElem?_eq_none (by omega), Option.getD_none]

/-- The four blanks after the last byte are what an index past it yields. -/
theorem getD_append_blanks (segs : List Byte) (n : Nat) :
    ((segs ++ [0x00#8, 0x00#8, 0x00#8, 0x00#8])[n]?).getD 0x00#8 = (segs[n]?).getD 0x00#8 := by
  have hblanks : ∀ m, (([0x00#8, 0x00#8, 0x00#8, 0x00#8] : List Byte)[m]?).getD 0x00#8 = 0x00#8
    | 0 | 1 | 2 | 3 | _ + 4 => rfl
  rcases Nat.lt_or_ge n segs.length with h | h
  · rw [List.getElem?_append_left h]
  · rw [List.getElem?_append_right h, hblanks, List.getElem?_eq_none h, Option.getD_none]

/-- R209: the last frame is blank. -/
theorem getLast?_scrollFrames (cfg : Config) (text : List Byte) :
    (scrollFrames cfg text).getLast? = some blankCells := by
  have hpast : ∀ j, frameCell (text.map (charSegments cfg)) (text.length + 3) j = 0x00#8 := fun j =>
    frameCell_past _ (by rw [List.length_map]; omega)
  rw [List.getLast?_eq_getElem?, length_scrollFrames, getElem?_scrollFrames cfg text (by omega)]
  simp only [Nat.reduceSubDiff, frameAt, hpast, blankCells]

/-! The expansion (R211) -/

theorem issued_append (g h : List HostStep) : issued (g ++ h) = issued g ++ issued h := List.filterMap_append

theorem length_issued_scroll (fs : List Cells) : (issued (fs.flatMap scrollFrame)).length = 4 * fs.length := by
  induction fs with
  | nil => rfl
  | cons f fs ih =>
    have hframe : (issued (scrollFrame f)).length = 4 := rfl
    rw [List.flatMap_cons, issued_append, List.length_append, hframe, ih, List.length_cons]
    omega

theorem count_waitScroll (fs : List Cells) : (fs.flatMap scrollFrame).count .waitScroll = fs.length := by
  induction fs with
  | nil => rfl
  | cons f fs ih =>
    have hframe : (scrollFrame f).count .waitScroll = 1 := by simp [scrollFrame]
    rw [List.flatMap_cons, List.count_append, hframe, ih, List.length_cons, Nat.add_comm]

/-- R211: all that is issued is WRSEG. -/
theorem eq_wrSeg_of_mem_issued {fs : List Cells} {i : Instr} (h : i ∈ issued (fs.flatMap scrollFrame)) :
    ∃ a raw, i = .wrSeg a raw := by
  obtain ⟨hs, hmem, hi⟩ := List.mem_filterMap.mp h
  obtain ⟨f, -, hstep⟩ := List.mem_flatMap.mp hmem
  simp only [scrollFrame, List.mem_cons, List.not_mem_nil, or_false] at hstep
  rcases hstep with rfl | rfl | rfl | rfl | rfl
  case inr.inr.inr.inr => cases hi
  all_goals exact ⟨_, _, (Option.some.inj hi).symm⟩

theorem execAll_append {is js : List Instr} {s t : State} (h : execAll is s = .next t) :
    execAll (is ++ js) s = execAll js t := by
  induction is generalizing s with
  | nil => rw [List.nil_append, Host.Outcome.next.inj h]
  | cons i is ih =>
    rw [execAll_cons] at h
    rw [List.cons_append, execAll_cons, ih h]

/-- R211: a blank frame leaves blank cells, but for the colon bit of position 1. -/
theorem execAll_blank_frame (s : State) :
    ∃ t, execAll (issued (scrollFrame blankCells)) s = .next t ∧ t.colon = s.colon
      ∧ t.buf = ⟨0x00#8, if s.colon then 0x80#8 else 0x00#8, 0x00#8, 0x00#8⟩ := by
  have hissued : issued (scrollFrame blankCells) =
      [.wrSeg 0#8 0x00#8, .wrSeg 1#8 0x00#8, .wrSeg 2#8 0x00#8, .wrSeg 3#8 0x00#8] := rfl
  have hcolon : ∀ a raw (u : State), (performed (.wrSeg a raw) u).colon = u.colon := fun _ _ _ => rfl
  have hpos : position 0#8 = 0#2 ∧ position 1#8 = 1#2 ∧ position 2#8 = 2#2 ∧ position 3#8 = 3#2 := by decide
  obtain ⟨h0, h1, h2, h3⟩ := hpos
  have hoverlay : compose 1#2 0x00#8 s.colon = if s.colon then 0x80#8 else 0x00#8 := by cases s.colon <;> rfl
  have hraw : ∀ p : Pos, p ≠ 1#2 → compose p 0x00#8 s.colon = 0x00#8 := fun p hp => if_neg fun h => hp h.1
  rw [hissued, execAll_cons, execAll_cons, execAll_cons, execAll_cons]
  refine ⟨_, rfl, rfl, ?_⟩
  simp only [performed_wrSeg_buf, hcolon, h0, h1, h2, h3, hoverlay, hraw 0#2 (by decide), hraw 2#2 (by decide),
    hraw 3#2 (by decide), Cells.set_zero, Cells.set_one, Cells.set_two, Cells.set_three]

end Sys2Proof.Machine

open Sys2Proof Sys2Proof.Machine

/-- Settles O52: every cell of a frame is its right neighbour one frame earlier, and the right-most takes the stream. -/
theorem scrollShiftsThroughTheWindow : Obligations.ScrollShiftsThroughTheWindow := by
  rintro cfg text _ rfl
  refine ⟨length_scrollFrames cfg text, ?_, fun k f g hf hg => ?_, getLast?_scrollFrames cfg text⟩
  · rw [List.head?_eq_getElem?, getElem?_scrollFrames cfg text (by omega), getD_append_blanks, frameAt,
      frameCell_right, frameCell_before _ (by decide), frameCell_before _ (by decide), frameCell_before _ (by decide)]
  · obtain rfl := eq_frameAt_of_getElem? hf
    obtain rfl := eq_frameAt_of_getElem? hg
    rw [getD_append_blanks, ← frameCell_right]
    simp only [frameAt, frameCell_succ]

/-- Settles O53: the writes keep the colon, and the last frame blanks the cells. -/
theorem scrollLeavesABlankDisplay : Obligations.ScrollLeavesABlankDisplay := by
  intro s text
  obtain ⟨fs, hfs⟩ := List.getLast?_eq_some_iff.mp (getLast?_scrollFrames s.cfg text)
  refine ⟨?_, ?_, ?_⟩
  · rw [hostScroll, length_issued_scroll, length_scrollFrames]
  · rw [hostScroll, count_waitScroll, length_scrollFrames]
  · have hkeeps : ∀ i ∈ issued (fs.flatMap scrollFrame), ∀ u : State, u.colon = s.colon →
        (performed i u).colon = s.colon := by
      rintro i hi u hu
      obtain ⟨a, raw, rfl⟩ := eq_wrSeg_of_mem_issued hi
      exact hu
    obtain ⟨u, hrun, hcolon⟩ := execAll_keeps hkeeps rfl
    obtain ⟨t, hlast, hcolon', hbuf⟩ := execAll_blank_frame u
    rw [hostScroll, hfs, List.flatMap_append, issued_append, execAll_append hrun]
    exact ⟨t, hlast, hcolon'.trans hcolon, by rw [hbuf, hcolon]⟩

end
